-- ==== Sys2Proof/Word.lean ====
section
/-!
DEFINITION. The plain word types of the engine (spec/00_scope.md R7, R8): bytes, IP addresses, link addresses.
A link address is held as the 48-bit number whose most significant byte is the first on the wire (R8, 20_memory.md R63).
-/

namespace Sys2Proof

/-- One byte of a frame, a packet or a buffer. -/
abbrev Byte := BitVec 8

/-- An IP address, first octet in bits 31 to 24 (00_scope.md R8). -/
abbrev IpAddr := BitVec 32

/-- A link address, first wire byte in bits 47 to 40 (00_scope.md R8, 20_memory.md R63). -/
abbrev MacAddr := BitVec 48

end Sys2Proof
end

