-- ==== Sys2Proof/Config.lean ====
section
/-!
DEFINITION. The implementation parameters of spec/00_scope.md R6 (and `BUF_CAP` of 10_state.md R48), and the one
free value: the transport boundary's answer to a `send` (20_memory.md R72, 93_implementation_defined.md U8).
The parameters are a record that State carries and no step changes, so that every statement over a state holds for
every value of them; `Params.reference` holds the spec's reference values.
-/

namespace Sys2Proof

/-- The environment's answer to one `emit send` (30_encoding.md R86). -/
inductive SendAnswer where
  | ok
  | err
deriving DecidableEq, Repr, Inhabited

/-- The answer to the `n`-th `emit send` of a run, where the environment has supplied none in advance: a free value,
of which nothing can be proved (20_memory.md R72 "a model takes it from an oracle"). Log 3. -/
opaque Config.sendAnswer : Nat → SendAnswer

/-- The record `Params` of 00_scope.md R6. -/
structure Params where
  /-- `ARP_CAPACITY`, the number of ARP slots. -/
  arpCapacity : Nat
  /-- `ARP_MAX_AGE`, above which a dynamic entry is freed. -/
  arpMaxAge : Nat
  /-- `ARP_STATIC_AGE`, the age that marks a static entry. -/
  arpStaticAge : BitVec 16
  /-- `RQ_POOL`, the number of retry slots. -/
  rqPool : Nat
  /-- `RQ_LIFE`, the tick budget of a queued packet. -/
  rqLife : BitVec 32
  /-- `PMAP_CAPACITY`, the number of port-map entries. -/
  pmapCapacity : Nat
  /-- `DHCP_BACKOFF_INIT`, in seconds. -/
  dhcpBackoffInit : BitVec 16
  /-- `DHCP_BACKOFF_MAX`, in seconds. -/
  dhcpBackoffMax : BitVec 16
  /-- `TICK_PERIOD`, in seconds: a promise of the environment that no rule reads (60_exceptions.md R335). -/
  tickPeriod : Nat
  /-- `PMAP_CLOSE_TICKS`, OPEN in the spec (log 2). -/
  pmapCloseTicks : BitVec 16
  /-- `ETH_MIN_PACKET`. -/
  ethMinPacket : Nat
  /-- `ETH_MAX_PACKET`. -/
  ethMaxPacket : Nat
  /-- `FTP_CTRL_PORT`. -/
  ftpCtrlPort : BitVec 16
  /-- `DHCP_CLIENT_PORT`. -/
  dhcpClientPort : BitVec 16
  /-- `DHCP_SERVER_PORT`. -/
  dhcpServerPort : BitVec 16
  /-- `IP_TTL_DEFAULT`. -/
  ipTtlDefault : Byte
  /-- `DHCP_MSG_LEN`. -/
  dhcpMsgLen : Nat
  /-- `CSADJ_ZERO_BORROWS`. -/
  csadjZeroBorrows : Bool
  /-- `BUF_CAP` (10_state.md R48). -/
  bufCap : Nat
deriving DecidableEq, Repr

/-- `IP_MAX_LEN = ETH_MAX_PACKET - 14` (00_scope.md R6). -/
def Params.ipMaxLen (p : Params) : Nat := p.ethMaxPacket - 14

/-- The reference values of 00_scope.md R6 and 10_state.md R48; `PMAP_CLOSE_TICKS` is OPEN there and takes the value
of the spec's test vectors (log 2, DESIGN CHOICE). -/
def Params.reference : Params where
  arpCapacity := 64
  arpMaxAge := 100
  arpStaticAge := 0xFFFF#16
  rqPool := 8
  rqLife := 1000#32
  pmapCapacity := 64
  dhcpBackoffInit := 4#16
  dhcpBackoffMax := 64#16
  tickPeriod := 1
  pmapCloseTicks := 10#16
  ethMinPacket := 60
  ethMaxPacket := 1514
  ftpCtrlPort := 21#16
  dhcpClientPort := 68#16
  dhcpServerPort := 67#16
  ipTtlDefault := 64#8
  dhcpMsgLen := 300
  csadjZeroBorrows := false
  bufCap := 1514

end Sys2Proof
end

