-- ==== Sys2Proof/Syntax.lean ====
section
/-!
DEFINITION. The commands of the engine, one constructor per row of spec/opcode_table.json (30_encoding.md R81).
Format C8 has no fields (30_encoding.md R80): every operand stands in a register or a buffer, so no constructor
carries an argument.
-/

namespace Sys2Proof

/-- The 23 commands of 30_encoding.md R81. -/
inductive Instr where
  /-- `ATTACH`, 45_bridge.md R292. -/
  | attach
  /-- `DETACH`, 45_bridge.md R293. -/
  | detach
  /-- `TICK`, 45_bridge.md R294. -/
  | tick
  /-- `RX`, 45_bridge.md R295. -/
  | rx
  /-- `TX`, 45_bridge.md R298. -/
  | tx
  /-- `CSR.WR`, 45_bridge.md R305. -/
  | csrWr
  /-- `CSR.RD`, 45_bridge.md R306. -/
  | csrRd
  /-- `CSUM`, 40_checksum.md R121. -/
  | csum
  /-- `CSADJ`, 40_checksum.md R125. -/
  | csadj
  /-- `ARP.LOOKUP`, 41_arp_cache.md R142. -/
  | arpLookup
  /-- `ARP.UPDATE`, 41_arp_cache.md R146. -/
  | arpUpdate
  /-- `ARP.AGE`, 41_arp_cache.md R150. -/
  | arpAge
  /-- `ARP.REQ`, 41_arp_cache.md R152. -/
  | arpReq
  /-- `ARP.RX`, 41_arp_cache.md R154. -/
  | arpRx
  /-- `RQ.ENQ`, 42_retry_queue.md R172. -/
  | rqEnq
  /-- `RQ.TICK`, 42_retry_queue.md R176. -/
  | rqTick
  /-- `RQ.FLUSH`, 42_retry_queue.md R178. -/
  | rqFlush
  /-- `XL.OUT`, 43_translator.md R192. -/
  | xlOut
  /-- `XL.IN`, 43_translator.md R210. -/
  | xlIn
  /-- `PM.TICK`, 43_translator.md R216. -/
  | pmTick
  /-- `DH.TICK`, 44_dhcp.md R248. -/
  | dhTick
  /-- `DH.RX`, 44_dhcp.md R240. -/
  | dhRx
  /-- `DH.REL`, 44_dhcp.md R262. -/
  | dhRel
deriving DecidableEq, Repr

end Sys2Proof
end

