-- ==== Sys2Proof/WellFormed.lean ====
section
/-!
DEFINITION. Well-formedness. A command word has no fields (spec/30_encoding.md R80), so every command is well formed;
what can be ill formed is the parameter record, whose legal values are 93_implementation_defined.md U1 and U11,
10_state.md R48, and the bounds that 30_encoding.md R86 and R90 put on the frames the engine builds.
-/

namespace Sys2Proof

/-- Every command is well formed: format C8 has no operand field that could hold an illegal value (30_encoding.md R80). -/
def Instr.wellFormed : Instr → Bool := fun _ => true

/-- `ARP_CAPACITY >= 1`, `RQ_POOL >= 1`, `PMAP_CAPACITY >= 1` (93 U1). -/
def Params.capacitiesOk (p : Params) : Bool :=
  decide (1 ≤ p.arpCapacity) && decide (1 ≤ p.rqPool) && decide (1 ≤ p.pmapCapacity)

/-- `0 <= ARP_MAX_AGE <= 32766` (93 U1), and the static age is the -1 that 10_state.md R28 writes. -/
def Params.agesOk (p : Params) : Bool :=
  decide (p.arpMaxAge ≤ 32766) && p.arpStaticAge == 0xFFFF#16

/-- `RQ_LIFE >= 1` (93 U1) and `PMAP_CLOSE_TICKS` in `1 .. 65535` (93 U11). -/
def Params.ticksOk (p : Params) : Bool :=
  p.rqLife != 0#32 && p.pmapCloseTicks != 0#16

/-- `1 <= DHCP_BACKOFF_INIT <= DHCP_BACKOFF_MAX <= 32767` (93 U1). -/
def Params.backoffOk (p : Params) : Bool :=
  decide (1 ≤ p.dhcpBackoffInit.toNat) && decide (p.dhcpBackoffInit.toNat ≤ p.dhcpBackoffMax.toNat)
    && decide (p.dhcpBackoffMax.toNat ≤ 32767)

/-- `BUF_CAP >= ETH_MAX_PACKET` (10_state.md R48), and every frame the engine builds itself fits
(30_encoding.md R86 and R90 "callers guarantee len(F) <= ETH_MAX_PACKET"): the longest is the DHCP frame, 42 bytes of
headers, a body of at least 261 bytes (44_dhcp.md R231). DEDUCED, log 2. -/
def Params.framesOk (p : Params) : Bool :=
  decide (p.ethMaxPacket ≤ p.bufCap) && decide (p.ethMinPacket ≤ p.ethMaxPacket)
    && decide (42 + 261 ≤ p.ethMaxPacket) && decide (42 + p.dhcpMsgLen ≤ p.ethMaxPacket)
    && decide (p.ethMaxPacket ≤ 65535)

/-- The parameter values the spec calls legal. -/
def Params.legal (p : Params) : Bool :=
  p.capacitiesOk && p.agesOk && p.ticksOk && p.backoffOk && p.framesOk

end Sys2Proof
end

