-- ==== Sys2Proof/Decode.lean ====
section
/-!
DEFINITION. The decoder and the encoder of the command word (spec/30_encoding.md R80, R81, R83).
-/

namespace Sys2Proof

/-- Why a byte string is no command. -/
inductive DecodeError where
  /-- The opcode is one of the reserved values of 30_encoding.md R83. -/
  | reservedOpcode (w : Byte)
  /-- A command is exactly one byte (30_encoding.md R80 "All commands have the same length"). -/
  | wrongLength (n : Nat)
deriving DecidableEq, Repr

/-- The opcode map of 30_encoding.md R81, read from the opcode to the command. -/
def decodeOpcode (w : Byte) : Except DecodeError Instr :=
  match w.toNat with
  | 0x01 => .ok .attach
  | 0x02 => .ok .detach
  | 0x03 => .ok .tick
  | 0x04 => .ok .rx
  | 0x05 => .ok .tx
  | 0x08 => .ok .csrWr
  | 0x09 => .ok .csrRd
  | 0x10 => .ok .csum
  | 0x11 => .ok .csadj
  | 0x20 => .ok .arpLookup
  | 0x21 => .ok .arpUpdate
  | 0x22 => .ok .arpAge
  | 0x23 => .ok .arpReq
  | 0x24 => .ok .arpRx
  | 0x30 => .ok .rqEnq
  | 0x31 => .ok .rqTick
  | 0x32 => .ok .rqFlush
  | 0x40 => .ok .xlOut
  | 0x41 => .ok .xlIn
  | 0x42 => .ok .pmTick
  | 0x50 => .ok .dhTick
  | 0x51 => .ok .dhRx
  | 0x52 => .ok .dhRel
  | _ => .error (.reservedOpcode w)

/-- The decoder, total on any byte string: a command word is one byte (30_encoding.md R80). -/
def decode : List Byte → Except DecodeError Instr
  | [w] => decodeOpcode w
  | bs => .error (.wrongLength bs.length)

/-- The opcode of a command, by 30_encoding.md R81. -/
def encodeOpcode : Instr → Byte
  | .attach => 0x01#8
  | .detach => 0x02#8
  | .tick => 0x03#8
  | .rx => 0x04#8
  | .tx => 0x05#8
  | .csrWr => 0x08#8
  | .csrRd => 0x09#8
  | .csum => 0x10#8
  | .csadj => 0x11#8
  | .arpLookup => 0x20#8
  | .arpUpdate => 0x21#8
  | .arpAge => 0x22#8
  | .arpReq => 0x23#8
  | .arpRx => 0x24#8
  | .rqEnq => 0x30#8
  | .rqTick => 0x31#8
  | .rqFlush => 0x32#8
  | .xlOut => 0x40#8
  | .xlIn => 0x41#8
  | .pmTick => 0x42#8
  | .dhTick => 0x50#8
  | .dhRx => 0x51#8
  | .dhRel => 0x52#8

/-- The words of a well-formed command. -/
def encode (i : Instr) : List Byte := [encodeOpcode i]

/-- The `nbits / 8` bytes of a table word, bits 7 to 0 first. -/
def tableBytes : Nat → Nat → List Byte
  | 0, _ => []
  | n + 1, w => BitVec.ofNat 8 w :: tableBytes n (w / 256)

/-- The command the decoder reads from a row of spec/opcode_table.json. -/
def decodeTableWord (nbits w : Nat) : Option Instr :=
  match decode (tableBytes (nbits / 8) w) with
  | .ok i => some i
  | .error _ => none

end Sys2Proof
end

