-- ==== Sys2Proof/Machine/State.lean ====
section
/-!
DEFINITION. The state of the engine as plain data: spec/10_state.md R20 to R49, and the model's own fields that stand
for the environment's side of the command port (logs 1, 2, 3). Every reset value is 70_reset_and_hazards.md R350's.
-/

namespace Sys2Proof.Machine

/-- A byte-addressed buffer (10_state.md R48): (address, byte) pairs, addresses strictly rising, no entry equal to
what an unlisted address reads as. -/
abbrev Memory := List Host.Cell

/-- What a buffer byte that nothing has written reads as: 10_state.md R48 "reset to zeros". -/
def Memory.unlisted : Byte := 0#8

/-- The canonical form of a buffer. -/
abbrev Memory.wf (m : Memory) : Prop :=
  m.Pairwise (fun c d => c.1 < d.1) ∧ ∀ c ∈ m, c.2 ≠ Memory.unlisted

/-- InterfaceIdentity, 10_state.md R24. -/
structure Identity where
  ownMac : MacAddr
  ownIp : IpAddr
  ownMask : IpAddr
  gatewayIp : IpAddr
  externalHostIp : IpAddr
deriving DecidableEq, Repr

/-- The control register `CTRL`, 10_state.md R25: two bits, the rest reads 0. -/
structure Ctrl where
  attached : Bool
  dhcpWant : Bool
deriving DecidableEq, Repr

/-- One ARP table entry, 10_state.md R27. -/
structure ArpEntry where
  ip : IpAddr
  linkAddr : MacAddr
  age : BitVec 16
deriving DecidableEq, Repr

/-- The zeroed (free) ARP entry, 10_state.md R28. -/
def ArpEntry.zero : ArpEntry := ⟨0#32, 0#48, 0#16⟩

/-- One retry slot, 10_state.md R31. -/
structure RqSlot where
  used : Bool
  ipPacket : List Byte
  pktLen : BitVec 16
  destIp : IpAddr
  life : BitVec 32
deriving DecidableEq, Repr

/-- The free retry slot, 10_state.md R31, 42_retry_queue.md R170. -/
def RqSlot.zero : RqSlot := ⟨false, [], 0#16, 0#32, 0#32⟩

/-- One port-map entry, 10_state.md R34. -/
structure PmapEntry where
  srcPort : BitVec 16
  dstPort : BitVec 16
  closeTimer : BitVec 16
  seqAdjust : BitVec 32
  lastSeq : BitVec 32
deriving DecidableEq, Repr

/-- The cleared port-map entry, 10_state.md R35. -/
def PmapEntry.zero : PmapEntry := ⟨0#16, 0#16, 0#16, 0#32, 0#32⟩

/-- The eight values of the 3-bit register `dh.state`, 10_state.md R38: seven named, 7 never produced. -/
inductive DhState where
  | off
  | selecting
  | requesting
  | bound
  | renewing
  | rebinding
  | backingOff
  | unused7
deriving DecidableEq, Repr

/-- The DHCP client registers, 10_state.md R38. -/
structure Dhcp where
  state : DhState
  transactionId : BitVec 32
  leaseSeconds : BitVec 32
  renewAt : BitVec 32
  rebindAt : BitVec 32
  retryWait : BitVec 16
  retryBackoff : BitVec 16
  address : IpAddr
  mask : IpAddr
  gateway : IpAddr
  dhcpServer : IpAddr
deriving DecidableEq, Repr

/-- Every `dh.*` register at 0 (70_reset_and_hazards.md R350). -/
def Dhcp.zero : Dhcp := ⟨.off, 0#32, 0#32, 0#32, 0#32, 0#16, 0#16, 0#32, 0#32, 0#32, 0#32⟩

/-- The statistics counters and `rfnm_count`, 10_state.md R44. -/
structure Counters where
  rqFull : BitVec 32
  rqExpired : BitVec 32
  txFail : BitVec 32
  rxDiscard : BitVec 32
  dhcpDiscard : BitVec 32
  pmapFull : BitVec 32
  noRoute : BitVec 32
  arpNospace : BitVec 32
  txDiscard : BitVec 32
  rfnm : BitVec 32
deriving DecidableEq, Repr

/-- Every counter at 0 (70_reset_and_hazards.md R350). -/
def Counters.zero : Counters := ⟨0#32, 0#32, 0#32, 0#32, 0#32, 0#32, 0#32, 0#32, 0#32, 0#32⟩

/-- The command-port registers, 10_state.md R46. -/
structure Port where
  cmd : BitVec 8
  status : BitVec 8
  opIp : IpAddr
  opMac : MacAddr
  opAge : BitVec 16
  opCsum : BitVec 16
  opReg : BitVec 8
  opVal : BitVec 48
  xidIn : BitVec 32
  resMac : MacAddr
  resCsum : BitVec 16
  resVal : BitVec 48
  lenA : BitVec 16
  lenB : BitVec 16
  lenOut : BitVec 16
deriving DecidableEq, Repr

/-- An output event, 30_encoding.md R86 to R88. -/
inductive Event where
  /-- `emit send(F)`: a complete Ethernet frame for the transport boundary (R86). -/
  | send (frame : List Byte)
  /-- `emit set_filter(m, L)` (R87). -/
  | setFilter (mac : MacAddr) (extra : List MacAddr)
  /-- `emit host_deliver(P)`: an IP packet for the host-bus boundary (R88). -/
  | hostDeliver (packet : List Byte)
deriving DecidableEq, Repr

/-- One action of the environment at the command port (10_state.md R45, R46; 20_memory.md R60, R72). Log 1. -/
inductive EnvAction where
  | opIp (v : IpAddr)
  | opMac (v : MacAddr)
  | opAge (v : BitVec 16)
  | opCsum (v : BitVec 16)
  | opReg (v : BitVec 8)
  | opVal (v : BitVec 48)
  | xidIn (v : BitVec 32)
  | lenA (v : BitVec 16)
  | lenB (v : BitVec 16)
  /-- Bytes written to `BUF_A` from an address on. -/
  | bufA (addr : Nat) (bytes : List Byte)
  /-- Bytes written to `BUF_B` from an address on. -/
  | bufB (addr : Nat) (bytes : List Byte)
  /-- The answers the transport boundary will give to the next `send` events, in order (R72). -/
  | sendAnswers (answers : List SendAnswer)
  /-- A write of `CMD`, which starts the operation (R46). -/
  | cmd (opcode : BitVec 8)
deriving DecidableEq, Repr

/-- The state of the engine and of the environment's side of its port. -/
structure State where
  /-- The parameters (00_scope.md R6); no step changes them. Model's own field, log 2. -/
  params : Params
  /-- 10_state.md R24. -/
  ident : Identity
  /-- 10_state.md R25. -/
  ctrl : Ctrl
  /-- 10_state.md R27. -/
  arp : List ArpEntry
  /-- 10_state.md R31. -/
  rq : List RqSlot
  /-- 10_state.md R34. -/
  pmap : List PmapEntry
  /-- 10_state.md R38. -/
  dhcp : Dhcp
  /-- 10_state.md R44. -/
  stats : Counters
  /-- 10_state.md R46. -/
  port : Port
  /-- 10_state.md R48. -/
  bufA : Memory
  /-- 10_state.md R48. -/
  bufB : Memory
  /-- 10_state.md R48. -/
  bufOut : Memory
  /-- The ordered events of the last command (20_memory.md R60, 70_reset_and_hazards.md R350). -/
  events : List Event
  /-- `CMD` has been written and its command has not run yet. Model's own field, log 1. -/
  cmdPending : Bool
  /-- The environment's answers to the coming sends. Model's own field, log 3. -/
  answers : List SendAnswer
  /-- How many sends the engine has emitted: the index of the free value. Model's own field, log 3. -/
  sendCount : Nat
  /-- What the environment will still do. Model's own field, log 1. -/
  env : List EnvAction
deriving DecidableEq, Repr

/-- Why the machine stops with a fault. The engine itself has no trap (60_exceptions.md R324, R328). -/
inductive Fault where
  /-- An access to a buffer byte at or above `BUF_CAP`, which does not exist (10_state.md R48). Raised by an
  environment action that writes past a buffer, and by `XL.OUT` / `XL.IN` should their packet not fit `BUF_OUT`, which
  legal parameters exclude. Safe: the machine stops where the spec gives no effect (log 5). -/
  | bufferAddress
deriving DecidableEq, Repr

/-- Why an instruction is refused by the model. Every command of the table has its meaning, so nothing raises it. -/
inductive Refusal where
  /-- Raised by `exec` for a command that has no meaning yet: none is left. Safe. -/
  | notModelled (mnemonic : String)
deriving DecidableEq, Repr

/-- The all-zero detached state that power-on produces (70_reset_and_hazards.md R350). The parameters, `cmdPending`,
`answers`, `sendCount` and `env` are the model's own fields (logs 1, 2, 3). -/
def State.reset : State where
  params := Params.reference
  ident := ⟨0#48, 0#32, 0#32, 0#32, 0#32⟩
  ctrl := ⟨false, false⟩
  arp := List.replicate Params.reference.arpCapacity ArpEntry.zero
  rq := List.replicate Params.reference.rqPool RqSlot.zero
  pmap := List.replicate Params.reference.pmapCapacity PmapEntry.zero
  dhcp := Dhcp.zero
  stats := Counters.zero
  port := ⟨0#8, 0#8, 0#32, 0#48, 0#16, 0#16, 0#8, 0#48, 0#32, 0#48, 0#16, 0#48, 0#16, 0#16, 0#16⟩
  bufA := []
  bufB := []
  bufOut := []
  events := []
  cmdPending := false
  answers := []
  sendCount := 0
  env := []

end Sys2Proof.Machine
end

