-- ==== Sys2Proof/Machine/Flags.lean ====
section
/-!
DEFINITION. The only condition code of the engine is `STATUS` (spec/10_state.md R23): its codes (60_exceptions.md
R322), and the encodings inside table entries and registers that act as flags (10_state.md R23, R26, R28, R35, R41).
-/

namespace Sys2Proof.Machine

/-- The status names of 60_exceptions.md R322. -/
inductive Status where
  | ok
  | miss
  | queueFull
  | txFail
  | discarded
  | notAttached
  | attached
  | illegalCmd
  | queued
  | noRoute
  | noAddress
  | arpNoslot
  | pmapFull
deriving DecidableEq, Repr

/-- The status codes of 60_exceptions.md R322. -/
def Status.code : Status → BitVec 8
  | .ok => 0#8
  | .miss => 1#8
  | .queueFull => 2#8
  | .txFail => 3#8
  | .discarded => 4#8
  | .notAttached => 5#8
  | .attached => 6#8
  | .illegalCmd => 7#8
  | .queued => 8#8
  | .noRoute => 9#8
  | .noAddress => 10#8
  | .arpNoslot => 11#8
  | .pmapFull => 12#8

/-- The encoding of `dh.state`, 10_state.md R38. -/
def DhState.code : DhState → BitVec 3
  | .off => 0#3
  | .selecting => 1#3
  | .requesting => 2#3
  | .bound => 3#3
  | .renewing => 4#3
  | .rebinding => 5#3
  | .backingOff => 6#3
  | .unused7 => 7#3

/-- The bound states are `Bound`, `Renewing`, `Rebinding` (10_state.md R41). -/
def DhState.isBound : DhState → Bool
  | .bound => true
  | .renewing => true
  | .rebinding => true
  | .off => false
  | .selecting => false
  | .requesting => false
  | .backingOff => false
  | .unused7 => false

/-- An ARP entry is free iff `ip == 0` (10_state.md R28, 41_arp_cache.md R140). -/
def ArpEntry.isFree (e : ArpEntry) : Bool := e.ip == 0#32

/-- An ARP entry is static iff `ip != 0` and its age is the static age (41_arp_cache.md R140). -/
def ArpEntry.isStatic (p : Params) (e : ArpEntry) : Bool := e.ip != 0#32 && e.age == p.arpStaticAge

/-- An ARP entry is dynamic iff `ip != 0` and its age is not the static age (41_arp_cache.md R140). -/
def ArpEntry.isDynamic (p : Params) (e : ArpEntry) : Bool := e.ip != 0#32 && e.age != p.arpStaticAge

/-- A port-map entry is free iff both ports are 0 (10_state.md R35). -/
def PmapEntry.isFree (e : PmapEntry) : Bool := e.srcPort == 0#16 && e.dstPort == 0#16

/-- `xl_active`, the translator-active predicate (10_state.md R26). -/
def Identity.xlActive (i : Identity) : Bool := i.externalHostIp != 0#32 && i.externalHostIp != i.ownIp

/-- `CTRL` as it reads: `dhcp_want` in bit 1, `attached` in bit 0, the rest 0 (10_state.md R25). -/
def Ctrl.read (c : Ctrl) : BitVec 32 :=
  0#30 ++ BitVec.ofBool c.dhcpWant ++ BitVec.ofBool c.attached

end Sys2Proof.Machine
end

