-- ==== Sys2Proof/Machine/Ops.lean ====
section
/-!
DEFINITION. The named operations over buffers, registers, counters and events. The engine has no trap: its "exception
entry" is `raise <Status>` (spec/60_exceptions.md R324), the one operation `State.raise` below; there is no return
from it (R328). The environment's side of the command port stands at the end.
-/

namespace Sys2Proof.Machine

/-- What executing a command answers. -/
abbrev Result := Host.Outcome State Fault Refusal

/-! ### Buffers (10_state.md R48) -/

/-- The byte at an address of a buffer. -/
def Memory.read : Memory → Nat → Byte
  | [], _ => Memory.unlisted
  | (c, x) :: m, a => if a = c then x else if a < c then Memory.unlisted else Memory.read m a

/-- Writes one byte, keeping the canonical form. -/
def Memory.write : Memory → Nat → Byte → Memory
  | [], a, b => if b = Memory.unlisted then [] else [(a, b)]
  | (c, x) :: m, a, b =>
    if a < c then (if b = Memory.unlisted then (c, x) :: m else (a, b) :: (c, x) :: m)
    else if a = c then (if b = Memory.unlisted then m else (a, b) :: m)
    else (c, x) :: Memory.write m a b

/-- `MemWrite`: replaces the bytes from an address on (00_scope.md R11). -/
def Memory.writeBytes : Memory → Nat → List Byte → Memory
  | m, _, [] => m
  | m, a, b :: bs => Memory.writeBytes (Memory.write m a b) (a + 1) bs

/-- `MemRead`: the `n` bytes from an address on (00_scope.md R11). -/
def Memory.readBytes (m : Memory) (a : Nat) : Nat → List Byte
  | 0 => []
  | n + 1 => Memory.read m a :: Memory.readBytes m (a + 1) n

/-! ### Ending an operation (60_exceptions.md R324) -/

/-- `raise <Status>` and the normal end alike: `STATUS` is written; nothing is saved and control goes nowhere
(60_exceptions.md R324). -/
def State.raise (s : State) (st : Status) : State := { s with port := { s.port with status := st.code } }

/-- The end of an operation that has answered its state and its status. -/
def finish (r : State × Status) : Result := .next (r.1.raise r.2)

/-! ### Counters (10_state.md R42, R44) -/

/-- The counters by name. -/
inductive Counter where
  | rqFull
  | rqExpired
  | txFail
  | rxDiscard
  | dhcpDiscard
  | pmapFull
  | noRoute
  | arpNospace
  | txDiscard
  | rfnm
deriving DecidableEq, Repr

/-- A counter increments by 1 modulo 2^32 (10_state.md R42). -/
def Counters.bump (c : Counters) : Counter → Counters
  | .rqFull => { c with rqFull := c.rqFull + 1#32 }
  | .rqExpired => { c with rqExpired := c.rqExpired + 1#32 }
  | .txFail => { c with txFail := c.txFail + 1#32 }
  | .rxDiscard => { c with rxDiscard := c.rxDiscard + 1#32 }
  | .dhcpDiscard => { c with dhcpDiscard := c.dhcpDiscard + 1#32 }
  | .pmapFull => { c with pmapFull := c.pmapFull + 1#32 }
  | .noRoute => { c with noRoute := c.noRoute + 1#32 }
  | .arpNospace => { c with arpNospace := c.arpNospace + 1#32 }
  | .txDiscard => { c with txDiscard := c.txDiscard + 1#32 }
  | .rfnm => { c with rfnm := c.rfnm + 1#32 }

/-- Counts one occurrence. -/
def State.count (s : State) (c : Counter) : State := { s with stats := s.stats.bump c }

/-- `down(x)`: an unsigned down-counter stops at 0 (44_dhcp.md R249, 40_checksum.md R130). -/
def down {w : Nat} (x : BitVec w) : BitVec w := if x = 0 then x else x - 1

/-! ### Events (00_scope.md R11, 30_encoding.md R86 to R88) -/

/-- Appends one event to the command's list. -/
def State.emit (s : State) (e : Event) : State := { s with events := s.events ++ [e] }

/-- The environment's answer to the next `send`: the one supplied, else a free value (20_memory.md R72; log 3). -/
def State.sendAnswer (s : State) : SendAnswer :=
  match s.answers with
  | [] => Config.sendAnswer s.sendCount
  | a :: _ => a

/-- The state after one `emit send(F)`: the event is appended and its answer consumed (30_encoding.md R86). -/
def State.emitSend (s : State) (frame : List Byte) : State :=
  { s.emit (.send frame) with answers := s.answers.tail, sendCount := s.sendCount + 1 }

/-- `r = emit send(F); if r == err: stat_tx_fail <- stat_tx_fail + 1`, with `TX_FAIL` for `err` and `OK` for `ok`
(60_exceptions.md R326). -/
def State.sendFrame (s : State) (frame : List Byte) : State × Status :=
  match s.sendAnswer with
  | .ok => (s.emitSend frame, .ok)
  | .err => ((s.emitSend frame).count .txFail, .txFail)

/-! ### The command port (10_state.md R45, R46; log 1) -/

/-- A write of `CMD`: the opcode is stored and its operation is due. -/
def State.writeCmd (s : State) (opcode : BitVec 8) : State :=
  { s with port := { s.port with cmd := opcode }, cmdPending := true }

/-- The engine takes the pending command: it is consumed once (20_memory.md R73) and its event list starts empty
(70_reset_and_hazards.md R350). -/
def State.accept (s : State) : State := { s with cmdPending := false, events := [] }

/-- The command the decoder reads from `CMD`. -/
def State.fetched (s : State) : Except DecodeError Instr := decode [s.port.cmd]

/-- A reserved opcode performs no operation, changes nothing but `STATUS`, emits nothing (30_encoding.md R83). -/
def reservedOpcode (s : State) : Result := finish (s, .illegalCmd)

/-- The environment writes bytes of a buffer; a byte at or above `BUF_CAP` does not exist (10_state.md R48; log 5). -/
def envBuffer (s : State) (m : Memory) (addr : Nat) (bytes : List Byte) (put : Memory → State) : Result :=
  if addr + bytes.length ≤ s.params.bufCap then .next (put (m.writeBytes addr bytes)) else .fault .bufferAddress

/-- One action of the environment at the command port (20_memory.md R60: "the environment writes the `in` registers
... directly"). -/
def envAct (s : State) : EnvAction → Result
  | .opIp v => .next { s with port := { s.port with opIp := v } }
  | .opMac v => .next { s with port := { s.port with opMac := v } }
  | .opAge v => .next { s with port := { s.port with opAge := v } }
  | .opCsum v => .next { s with port := { s.port with opCsum := v } }
  | .opReg v => .next { s with port := { s.port with opReg := v } }
  | .opVal v => .next { s with port := { s.port with opVal := v } }
  | .xidIn v => .next { s with port := { s.port with xidIn := v } }
  | .lenA v => .next { s with port := { s.port with lenA := v } }
  | .lenB v => .next { s with port := { s.port with lenB := v } }
  | .bufA addr bytes => envBuffer s s.bufA addr bytes (fun m => { s with bufA := m })
  | .bufB addr bytes => envBuffer s s.bufB addr bytes (fun m => { s with bufB := m })
  | .sendAnswers l => .next { s with answers := l }
  | .cmd w => .next (s.writeCmd w)

/-- What happens while no command is pending: the environment's next action, or waiting (70_reset_and_hazards.md
R351 "the engine waits for commands"). -/
def envStep (s : State) : Result :=
  match s.env with
  | [] => .next s
  | a :: rest => envAct { s with env := rest } a

end Sys2Proof.Machine
end

