-- ==== Sys2Proof/Machine/Operands.lean ====
section
/-!
DEFINITION. The operand forms: attach gating (spec/30_encoding.md R84, 45_bridge.md R291), the buffer operands with
their length check (10_state.md R48), the result buffer, and the registers named by `OP_REG` (10_state.md R24, R25,
R38, R44; 45_bridge.md R305, R306).
-/

namespace Sys2Proof.Machine

/-- A command accepted only while attached; detached it does nothing but `STATUS <- NOT_ATTACHED` (30_encoding.md
R84, 45_bridge.md R291). -/
def whenAttached (s : State) (k : Result) : Result :=
  if s.ctrl.attached then k else finish (s, .notAttached)

/-- `BUF_A[0:LEN_A]`. -/
def State.operandA (s : State) : List Byte := s.bufA.readBytes 0 s.port.lenA.toNat

/-- `BUF_B[0:LEN_B]`. -/
def State.operandB (s : State) : List Byte := s.bufB.readBytes 0 s.port.lenB.toNat

/-- A command that reads `BUF_A`: with `LEN_A` above `BUF_CAP` it does nothing but `STATUS <- ILLEGAL_CMD`
(10_state.md R48, 93 U9). -/
def withBufA (s : State) (k : List Byte → Result) : Result :=
  if s.port.lenA.toNat ≤ s.params.bufCap then k s.operandA else finish (s, .illegalCmd)

/-- A command that reads `BUF_B` (10_state.md R48, 93 U9). -/
def withBufB (s : State) (k : List Byte → Result) : Result :=
  if s.port.lenB.toNat ≤ s.params.bufCap then k s.operandB else finish (s, .illegalCmd)

/-- `BUF_OUT[0:len(P)] <- P; LEN_OUT <- len(P)` (43_translator.md R192, R210). -/
def State.putOut (s : State) (packet : List Byte) : State :=
  { s with bufOut := s.bufOut.writeBytes 0 packet,
           port := { s.port with lenOut := BitVec.ofNat 16 packet.length } }

/-- `if P != none: BUF_OUT[0:len(P)] <- P; LEN_OUT <- len(P)`, then `STATUS` (43_translator.md R192, R210; log 9). A packet
longer than `BUF_OUT` would touch bytes that do not exist (log 5). -/
def storeOut (r : State × Status × Option (List Byte)) : Result :=
  match r with
  | (s, st, none) => finish (s, st)
  | (s, st, some packet) =>
    if packet.length ≤ s.params.bufCap then finish (s.putOut packet, st) else .fault .bufferAddress

/-- The registers that `CSR.RD` and `CSR.WR` name: 10_state.md R24, R25, R38, R44. -/
inductive Csr where
  | ownMac
  | ownIp
  | ownMask
  | gatewayIp
  | externalHostIp
  | ctrl
  | dhState
  | dhTransactionId
  | dhLeaseSeconds
  | dhRenewAt
  | dhRebindAt
  | dhRetryWait
  | dhRetryBackoff
  | dhAddress
  | dhMask
  | dhGateway
  | dhDhcpServer
  | statRqFull
  | statRqExpired
  | statTxFail
  | statRxDiscard
  | statDhcpDiscard
  | statPmapFull
  | statNoRoute
  | statArpNospace
  | statTxDiscard
  | rfnmCount
deriving DecidableEq, Repr

/-- The register numbers; any other number is no register (45_bridge.md R305, R306). -/
def Csr.ofNumber (n : BitVec 8) : Option Csr :=
  match n.toNat with
  | 0x00 => some .ownMac
  | 0x01 => some .ownIp
  | 0x02 => some .ownMask
  | 0x03 => some .gatewayIp
  | 0x04 => some .externalHostIp
  | 0x05 => some .ctrl
  | 0x10 => some .dhState
  | 0x11 => some .dhTransactionId
  | 0x12 => some .dhLeaseSeconds
  | 0x13 => some .dhRenewAt
  | 0x14 => some .dhRebindAt
  | 0x15 => some .dhRetryWait
  | 0x16 => some .dhRetryBackoff
  | 0x17 => some .dhAddress
  | 0x18 => some .dhMask
  | 0x19 => some .dhGateway
  | 0x1A => some .dhDhcpServer
  | 0x20 => some .statRqFull
  | 0x21 => some .statRqExpired
  | 0x22 => some .statTxFail
  | 0x23 => some .statRxDiscard
  | 0x24 => some .statDhcpDiscard
  | 0x25 => some .statPmapFull
  | 0x26 => some .statNoRoute
  | 0x27 => some .statArpNospace
  | 0x28 => some .statTxDiscard
  | 0x29 => some .rfnmCount
  | _ => none

/-- `zext_48(register)` (45_bridge.md R306). -/
def State.readCsr (s : State) : Csr → BitVec 48
  | .ownMac => s.ident.ownMac
  | .ownIp => s.ident.ownIp.setWidth 48
  | .ownMask => s.ident.ownMask.setWidth 48
  | .gatewayIp => s.ident.gatewayIp.setWidth 48
  | .externalHostIp => s.ident.externalHostIp.setWidth 48
  | .ctrl => s.ctrl.read.setWidth 48
  | .dhState => s.dhcp.state.code.setWidth 48
  | .dhTransactionId => s.dhcp.transactionId.setWidth 48
  | .dhLeaseSeconds => s.dhcp.leaseSeconds.setWidth 48
  | .dhRenewAt => s.dhcp.renewAt.setWidth 48
  | .dhRebindAt => s.dhcp.rebindAt.setWidth 48
  | .dhRetryWait => s.dhcp.retryWait.setWidth 48
  | .dhRetryBackoff => s.dhcp.retryBackoff.setWidth 48
  | .dhAddress => s.dhcp.address.setWidth 48
  | .dhMask => s.dhcp.mask.setWidth 48
  | .dhGateway => s.dhcp.gateway.setWidth 48
  | .dhDhcpServer => s.dhcp.dhcpServer.setWidth 48
  | .statRqFull => s.stats.rqFull.setWidth 48
  | .statRqExpired => s.stats.rqExpired.setWidth 48
  | .statTxFail => s.stats.txFail.setWidth 48
  | .statRxDiscard => s.stats.rxDiscard.setWidth 48
  | .statDhcpDiscard => s.stats.dhcpDiscard.setWidth 48
  | .statPmapFull => s.stats.pmapFull.setWidth 48
  | .statNoRoute => s.stats.noRoute.setWidth 48
  | .statArpNospace => s.stats.arpNospace.setWidth 48
  | .statTxDiscard => s.stats.txDiscard.setWidth 48
  | .rfnmCount => s.stats.rfnm.setWidth 48

/-- A write of an identity register that is immutable while attached (45_bridge.md R305). -/
def State.writeDetached (s : State) (ident : Identity) : State × Status :=
  if s.ctrl.attached then (s, .attached) else ({ s with ident := ident }, .ok)

/-- The write table of 45_bridge.md R305. -/
def State.writeCsr (s : State) (v : BitVec 48) : Csr → State × Status
  | .ownMac => s.writeDetached { s.ident with ownMac := v }
  | .ownIp => s.writeDetached { s.ident with ownIp := v.setWidth 32 }
  | .ownMask => s.writeDetached { s.ident with ownMask := v.setWidth 32 }
  | .gatewayIp => ({ s with ident := { s.ident with gatewayIp := v.setWidth 32 } }, .ok)
  | .externalHostIp => ({ s with ident := { s.ident with externalHostIp := v.setWidth 32 } }, .ok)
  | .ctrl => ({ s with ctrl := { s.ctrl with dhcpWant := v.getLsbD 1 } }, .ok)
  | .rfnmCount => ({ s with stats := { s.stats with rfnm := 0#32 } }, .ok)
  | .dhState => (s, .illegalCmd)
  | .dhTransactionId => (s, .illegalCmd)
  | .dhLeaseSeconds => (s, .illegalCmd)
  | .dhRenewAt => (s, .illegalCmd)
  | .dhRebindAt => (s, .illegalCmd)
  | .dhRetryWait => (s, .illegalCmd)
  | .dhRetryBackoff => (s, .illegalCmd)
  | .dhAddress => (s, .illegalCmd)
  | .dhMask => (s, .illegalCmd)
  | .dhGateway => (s, .illegalCmd)
  | .dhDhcpServer => (s, .illegalCmd)
  | .statRqFull => (s, .illegalCmd)
  | .statRqExpired => (s, .illegalCmd)
  | .statTxFail => (s, .illegalCmd)
  | .statRxDiscard => (s, .illegalCmd)
  | .statDhcpDiscard => (s, .illegalCmd)
  | .statPmapFull => (s, .illegalCmd)
  | .statNoRoute => (s, .illegalCmd)
  | .statArpNospace => (s, .illegalCmd)
  | .statTxDiscard => (s, .illegalCmd)

end Sys2Proof.Machine
end

