-- ==== Sys2Proof/Machine/Bytes.lean ====
section
/-!
DEFINITION. Byte sequences (spec/00_scope.md R9, R10; 20_memory.md R62): slices and big-endian fields.
-/

namespace Sys2Proof.Machine

/-- `B[i]`, 0 outside the sequence (every rule checks the length first, 20_memory.md R61). -/
def byteAt (b : List Byte) (i : Nat) : Byte := b.getD i 0#8

/-- `B[i:j]`, half open (00_scope.md R9). -/
def slice (b : List Byte) (i j : Nat) : List Byte := (b.drop i).take (j - i)

/-- `zeros(n)` (00_scope.md R9). -/
def zeros (n : Nat) : List Byte := List.replicate n 0#8

/-- `be16(B, i)` (00_scope.md R10). -/
def be16 (b : List Byte) (i : Nat) : BitVec 16 := byteAt b i ++ byteAt b (i + 1)

/-- `be32(B, i)` (00_scope.md R10). -/
def be32 (b : List Byte) (i : Nat) : BitVec 32 := be16 b i ++ be16 b (i + 2)

/-- The link address at `B[i:i+6]`, first byte most significant (00_scope.md R8, 20_memory.md R63). -/
def be48 (b : List Byte) (i : Nat) : BitVec 48 := be16 b i ++ be32 b (i + 2)

/-- `bytes16(v)` (00_scope.md R10). -/
def bytes16 (v : BitVec 16) : List Byte := [v.extractLsb' 8 8, v.extractLsb' 0 8]

/-- `bytes32(v)` (00_scope.md R10). -/
def bytes32 (v : BitVec 32) : List Byte := bytes16 (v.extractLsb' 16 16) ++ bytes16 (v.extractLsb' 0 16)

/-- A link address as its six bytes in wire order (00_scope.md R8). -/
def bytes48 (v : BitVec 48) : List Byte := bytes16 (v.extractLsb' 32 16) ++ bytes32 (v.extractLsb' 0 32)

/-- `put16(B, i, v)` (00_scope.md R10). -/
def put16 (b : List Byte) (i : Nat) (v : BitVec 16) : List Byte :=
  (b.set i (v.extractLsb' 8 8)).set (i + 1) (v.extractLsb' 0 8)

/-- `put32(B, i, v)` (00_scope.md R10). -/
def put32 (b : List Byte) (i : Nat) (v : BitVec 32) : List Byte :=
  put16 (put16 b i (v.extractLsb' 16 16)) (i + 2) (v.extractLsb' 0 16)

end Sys2Proof.Machine
end

