-- ==== Sys2Proof/Machine/Checksum.lean ====
section
/-!
DEFINITION. The Checksum Engine, spec/40_checksum.md: `CSUM` and `CSADJ`.
-/

namespace Sys2Proof.Machine

/-- `words(B)`: 16-bit big-endian words, an odd trailing byte padded with a zero low byte (40_checksum.md R120). -/
def words : List Byte → List (BitVec 16)
  | [] => []
  | [x] => [x ++ 0#8]
  | x :: y :: rest => (x ++ y) :: words rest

/-- The sum of the words as an unbounded natural number (40_checksum.md R121). -/
def wordSum (b : List Byte) : Nat := ((words b).map BitVec.toNat).sum

/-- `while s > 0xFFFF: s = s[15:0] + (s >> 16)`, at most `fuel` rounds; each round makes `s` smaller, so `s` rounds
are enough (40_checksum.md R121). -/
def foldCarries : Nat → Nat → Nat
  | 0, s => s
  | fuel + 1, s => if 0xFFFF < s then foldCarries fuel (s % 0x10000 + s / 0x10000) else s

/-- `checksum(D)`, 40_checksum.md R121. -/
def checksum (b : List Byte) : BitVec 16 :=
  ~~~ (BitVec.ofNat 16 (foldCarries (wordSum b) (wordSum b)))

/-- One subtraction of R125: `s - w` with borrow; `zeroBorrows` is `CSADJ_ZERO_BORROWS`. -/
def csumSub (zeroBorrows : Bool) (s : Nat) (w : BitVec 16) : Nat :=
  let d : Int := (s : Int) - (w.toNat : Int)
  if d < 0 ∨ (zeroBorrows = true ∧ d = 0) then ((d - 1) % 0x10000).toNat else d.toNat

/-- One addition of R125: `s + w` with carry. -/
def csumAdd (s : Nat) (w : BitVec 16) : Nat :=
  if 0xFFFF < s + w.toNat then (s + w.toNat + 1) % 0x10000 else s + w.toNat

/-- `adjust_checksum(c, O, N)`, 40_checksum.md R125. -/
def adjustChecksum (zeroBorrows : Bool) (c : BitVec 16) (old new : List Byte) : BitVec 16 :=
  ~~~ (BitVec.ofNat 16 ((words new).foldl csumAdd ((words old).foldl (csumSub zeroBorrows) (~~~ c).toNat)))

/-- `adjust_checksum` with the engine's parameter (40_checksum.md R125). -/
def adjustCsum (p : Params) (c : BitVec 16) (old new : List Byte) : BitVec 16 :=
  adjustChecksum p.csadjZeroBorrows c old new

/-- `RES_CSUM <- v`. -/
def State.putCsum (s : State) (v : BitVec 16) : State := { s with port := { s.port with resCsum := v } }

/-- `CSUM`, 40_checksum.md R121: accepted attached or detached. -/
def execCsum (s : State) : Result :=
  withBufA s fun d => finish (s.putCsum (checksum d), .ok)

/-- `CSADJ`, 40_checksum.md R125: accepted attached or detached. -/
def execCsadj (s : State) : Result :=
  withBufA s fun old => withBufB s fun new =>
    finish (s.putCsum (adjustCsum s.params s.port.opCsum old new), .ok)

end Sys2Proof.Machine
end

