-- ==== Sys2Proof/Machine/Wire.lean ====
section
/-!
DEFINITION. Wire formats and constants, spec/30_encoding.md R89 to R101: decode and build functions for Ethernet, ARP,
IPv4, TCP, UDP and DHCP, each total, each behind its stated length check (20_memory.md R61).
-/

namespace Sys2Proof.Machine

/-! ### Constants (30_encoding.md R89) -/

/-- `ETHERTYPE_IP`. -/
def etherTypeIp : BitVec 16 := 0x0800#16
/-- `ETHERTYPE_ARP`. -/
def etherTypeArp : BitVec 16 := 0x0806#16
/-- `MAC_BCAST`. -/
def macBcast : MacAddr := 0xFFFFFFFFFFFF#48
/-- `IP_BCAST`. -/
def ipBcast : IpAddr := 0xFFFFFFFF#32
/-- `PROTO_TCP`. -/
def protoTcp : Byte := 6#8
/-- `PROTO_UDP`. -/
def protoUdp : Byte := 17#8
/-- `ARP_HTYPE_ETH`. -/
def arpHtypeEth : BitVec 16 := 1#16
/-- `ARP_OP_REQUEST`. -/
def arpOpRequest : BitVec 16 := 1#16
/-- `ARP_OP_REPLY`. -/
def arpOpReply : BitVec 16 := 2#16
/-- `BOOTREQUEST`. -/
def bootRequest : Byte := 1#8
/-- `BOOTREPLY`. -/
def bootReply : Byte := 2#8
/-- `DHCP_COOKIE`. -/
def dhcpCookie : List Byte := [0x63#8, 0x82#8, 0x53#8, 0x63#8]
/-- DHCP message type OFFER. -/
def dhcpOffer : Byte := 2#8
/-- DHCP message type ACK. -/
def dhcpAck : Byte := 5#8
/-- DHCP message type NAK. -/
def dhcpNak : Byte := 6#8

/-! ### Ethernet (30_encoding.md R90) -/

/-- `eth_frame(dst, src, type, payload)`, padded with zeros to `ETH_MIN_PACKET`. -/
def ethFrame (p : Params) (dst src : MacAddr) (etherType : BitVec 16) (payload : List Byte) : List Byte :=
  let f := bytes48 dst ++ bytes48 src ++ bytes16 etherType ++ payload
  f ++ zeros (p.ethMinPacket - f.length)

/-! ### ARP (30_encoding.md R91) -/

/-- The fields of an ARP packet that the engine reads. -/
structure ArpPacket where
  oper : BitVec 16
  sha : MacAddr
  spa : IpAddr
  tpa : IpAddr
deriving DecidableEq, Repr

/-- The 28-byte ARP body for Ethernet and IPv4 (30_encoding.md R91). -/
def arpBody (oper : BitVec 16) (sha : MacAddr) (spa : IpAddr) (tha : MacAddr) (tpa : IpAddr) : List Byte :=
  bytes16 arpHtypeEth ++ bytes16 etherTypeIp ++ [6#8, 4#8] ++ bytes16 oper
    ++ bytes48 sha ++ bytes32 spa ++ bytes48 tha ++ bytes32 tpa

/-- The validity test and the fields of a received ARP frame (41_arp_cache.md R154). -/
def arpDecode (f : List Byte) : Option ArpPacket :=
  let a := slice f 14 42
  if 42 ≤ f.length ∧ be16 f 12 = etherTypeArp ∧ be16 a 0 = arpHtypeEth ∧ be16 a 2 = etherTypeIp
      ∧ byteAt a 4 = 6#8 ∧ byteAt a 5 = 4#8 then
    some { oper := be16 a 6, sha := be48 a 8, spa := be32 a 14, tpa := be32 a 24 }
  else none

/-! ### IPv4 (30_encoding.md R92, R93) -/

/-- The IPv4 header fields of 30_encoding.md R92. -/
structure IpHeader where
  hl : Nat
  tos : Byte
  tl : Nat
  ident : BitVec 16
  flagsFrag : BitVec 16
  ttl : Byte
  proto : Byte
  csum : BitVec 16
  src : IpAddr
  dst : IpAddr
deriving DecidableEq, Repr

/-- `frag_off = be16(P,6)[12:0]` (30_encoding.md R93). -/
def IpHeader.fragOff (h : IpHeader) : BitVec 13 := h.flagsFrag.extractLsb' 0 13

/-- `MF = be16(P,6)[13]` (30_encoding.md R93). -/
def IpHeader.mf (h : IpHeader) : Bool := h.flagsFrag.getLsbD 13

/-- The header length `4*IHL` of a packet's first byte (30_encoding.md R92). -/
def ipHeaderLen (b : List Byte) : Nat := 4 * ((byteAt b 0).extractLsb' 0 4).toNat

/-- `ip_decode(P)`, 30_encoding.md R93. -/
def ipDecode (b : List Byte) : Option IpHeader :=
  let hl := ipHeaderLen b
  let tl := (be16 b 2).toNat
  if 20 ≤ b.length ∧ (byteAt b 0).extractLsb' 4 4 = 4#4 ∧ 20 ≤ hl ∧ hl ≤ b.length ∧ hl ≤ tl ∧ tl ≤ b.length then
    some { hl := hl, tos := byteAt b 1, tl := tl, ident := be16 b 4, flagsFrag := be16 b 6, ttl := byteAt b 8,
           proto := byteAt b 9, csum := be16 b 10, src := be32 b 12, dst := be32 b 16 }
  else none

/-! ### TCP and UDP (30_encoding.md R94, R95, R97) -/

/-- The TCP header fields the engine reads. -/
structure TcpHeader where
  sport : BitVec 16
  dport : BitVec 16
  seq : BitVec 32
  ack : BitVec 32
  hlen : Nat
  flags : Byte
  csum : BitVec 16
deriving DecidableEq, Repr

/-- The TCP flag bits of 30_encoding.md R89. -/
def TcpHeader.fin (t : TcpHeader) : Bool := t.flags.getLsbD 0
/-- `SYN`, 0x02. -/
def TcpHeader.syn (t : TcpHeader) : Bool := t.flags.getLsbD 1
/-- `RST`, 0x04. -/
def TcpHeader.rst (t : TcpHeader) : Bool := t.flags.getLsbD 2
/-- `ACK`, 0x10. -/
def TcpHeader.ackFlag (t : TcpHeader) : Bool := t.flags.getLsbD 4

/-- `4*doff` of a segment (30_encoding.md R94). -/
def tcpHeaderLen (t : List Byte) : Nat := 4 * ((byteAt t 12).extractLsb' 4 4).toNat

/-- `tcp_decode(L4)`, 30_encoding.md R94. -/
def tcpDecode (t : List Byte) : Option TcpHeader :=
  let hlen := tcpHeaderLen t
  if 20 ≤ t.length ∧ 20 ≤ hlen ∧ hlen ≤ t.length then
    some { sport := be16 t 0, dport := be16 t 2, seq := be32 t 4, ack := be32 t 8, hlen := hlen,
           flags := byteAt t 13, csum := be16 t 16 }
  else none

/-- The UDP header fields of 30_encoding.md R95. -/
structure UdpHeader where
  sport : BitVec 16
  dport : BitVec 16
  len : BitVec 16
  csum : BitVec 16
deriving DecidableEq, Repr

/-- `udp_decode(L4)`, 30_encoding.md R95. -/
def udpDecode (t : List Byte) : Option UdpHeader :=
  if 8 ≤ t.length then
    some { sport := be16 t 0, dport := be16 t 2, len := be16 t 4, csum := be16 t 6 }
  else none

/-- `pseudo(src, dst, proto, n)`, 30_encoding.md R97. -/
def pseudo (src dst : IpAddr) (proto : Byte) (n : Nat) : List Byte :=
  bytes32 src ++ bytes32 dst ++ [0#8, proto] ++ bytes16 (BitVec.ofNat 16 n)

/-! ### Checksum verification (30_encoding.md R98) -/

/-- `ip_hdr_ok(P)`. -/
def ipHeaderOk (h : IpHeader) (b : List Byte) : Bool := checksum (b.take h.hl) == 0#16

/-- `udp_ok(P)`, on the UDP datagram `u` of the packet with header `h`. -/
def udpOk (h : IpHeader) (u : List Byte) : Bool :=
  be16 u 6 == 0#16 || checksum (pseudo h.src h.dst protoUdp u.length ++ u) == 0#16

/-! ### DHCP options (30_encoding.md R100) -/

/-- The length test of a known option code: 4 bytes; a positive multiple of 4 for code 3; 1 for code 53; any length for
code 55 and for unknown codes. -/
def optionLengthOk (code : Byte) (n : Nat) : Bool :=
  match code.toNat with
  | 1 => n == 4
  | 3 => n % 4 == 0 && n != 0
  | 50 => n == 4
  | 51 => n == 4
  | 53 => n == 1
  | 54 => n == 4
  | 58 => n == 4
  | 59 => n == 4
  | _ => true

/-- `opts_parse`: the items of an option area in order, `none` for a decode error. Each round takes at least one byte, so
the length of the area is fuel enough (30_encoding.md R100; log 6). -/
def optsParse : Nat → List Byte → Option (List (Byte × List Byte))
  | 0, _ => some []
  | _ + 1, [] => some []
  | fuel + 1, code :: rest =>
    if code = 0#8 then optsParse fuel rest
    else if code = 255#8 then some []
    else
      match rest with
      | [] => none
      | n :: body =>
        if n.toNat ≤ body.length ∧ optionLengthOk code n.toNat = true then
          (optsParse fuel (body.drop n.toNat)).map ((code, body.take n.toNat) :: ·)
        else none

/-- The data of the first option with a code (30_encoding.md R100 "the first occurrence wins"). -/
def optFind (opts : List (Byte × List Byte)) (code : Byte) : Option (List Byte) :=
  (opts.find? (fun o => o.1 == code)).map (·.2)

/-- `O[c]` of a four-byte option, or the first four bytes of code 3 (44_dhcp.md R240). -/
def optWord (opts : List (Byte × List Byte)) (code : Byte) : Option (BitVec 32) :=
  (optFind opts code).map (fun d => be32 d 0)

/-- `O[53]`, the message type (44_dhcp.md R240). -/
def optByte (opts : List (Byte × List Byte)) (code : Byte) : Option Byte :=
  (optFind opts code).map (fun d => byteAt d 0)

/-! ### Decimal rendering (30_encoding.md R101) -/

/-- The ASCII digit of a number below 10. -/
def asciiDigit (n : Nat) : Byte := BitVec.ofNat 8 (0x30 + n)

/-- `dec(n)` for `0 <= n <= 255`. -/
def dec (n : Nat) : List Byte :=
  if n < 10 then [asciiDigit n]
  else if n < 100 then [asciiDigit (n / 10), asciiDigit (n % 10)]
  else [asciiDigit (n / 100), asciiDigit (n / 10 % 10), asciiDigit (n % 10)]

/-- `','`. -/
def asciiComma : Byte := 0x2C#8

/-- `"PORT "`. -/
def asciiPort : List Byte := [0x50#8, 0x4F#8, 0x52#8, 0x54#8, 0x20#8]

/-- Whether a byte is an ASCII digit. -/
def isAsciiDigit (b : Byte) : Bool := decide (0x30 ≤ b.toNat) && decide (b.toNat ≤ 0x39)

end Sys2Proof.Machine
end

