-- ==== Sys2Proof/Machine/ArpTable.lean ====
section
/-!
DEFINITION. The operations on the ARP table and the ARP request, spec/41_arp_cache.md R140 to R152, which the commands
of the ARP cache, the retry queue, the DHCP client and the bridge share.
-/

namespace Sys2Proof.Machine

/-- `arp_find(ip)`: the lowest index with that `ip`, none for 0 (41_arp_cache.md R141). -/
def arpFind (t : List ArpEntry) (ip : IpAddr) : Option Nat :=
  if ip = 0#32 then none else t.findIdx? (fun e => e.ip == ip)

/-- `arp_lookup(ip)`, 41_arp_cache.md R142: the table is not written. -/
def arpLookup (s : State) (ip : IpAddr) : Option MacAddr :=
  (arpFind s.arp ip).bind fun i => (s.arp[i]?).map (·.linkAddr)

/-- The lowest free slot (41_arp_cache.md R146). -/
def arpFreeSlot (t : List ArpEntry) : Option Nat := t.findIdx? ArpEntry.isFree

/-- The slot to evict: the lowest index among the non-static entries of largest signed age, none if every entry is
static (41_arp_cache.md R146). -/
def arpOldest (p : Params) (t : List ArpEntry) : Option Nat :=
  match ((t.filter (fun e => e.age != p.arpStaticAge)).map (fun e => e.age.toInt)).max? with
  | none => none
  | some amax => t.findIdx? (fun e => e.age != p.arpStaticAge && e.age.toInt == amax)

/-- What an update makes of an existing entry: the link address is overwritten, the age unless the entry is static
(41_arp_cache.md R146). -/
def ArpEntry.refresh (p : Params) (m : MacAddr) (a : BitVec 16) (e : ArpEntry) : ArpEntry :=
  { e with linkAddr := m, age := if e.age = p.arpStaticAge then e.age else a }

/-- `arp_update(ip, m, a)`, 41_arp_cache.md R146 and R147. -/
def arpUpdate (s : State) (ip : IpAddr) (m : MacAddr) (a : BitVec 16) : State × Status :=
  if ip = 0#32 then (s, .ok)
  else
    match arpFind s.arp ip with
    | some i => ({ s with arp := s.arp.modify i (ArpEntry.refresh s.params m a) }, .ok)
    | none =>
      match arpFreeSlot s.arp with
      | some i => ({ s with arp := s.arp.set i ⟨ip, m, a⟩ }, .ok)
      | none =>
        match arpOldest s.params s.arp with
        | some i => ({ s with arp := s.arp.set i ⟨ip, m, a⟩ }, .ok)
        | none => (s.count .arpNospace, .arpNoslot)

/-- One entry under `arp_age_tick` (41_arp_cache.md R150): incremented, then freed if its age exceeds the maximum. -/
def ArpEntry.tick (p : Params) (e : ArpEntry) : ArpEntry :=
  if e.isDynamic p then
    if (p.arpMaxAge : Int) < (e.age + 1#16).toInt then ArpEntry.zero else { e with age := e.age + 1#16 }
  else e

/-- `arp_age_tick()`, 41_arp_cache.md R150. -/
def arpAgeTick (s : State) : State := { s with arp := s.arp.map (ArpEntry.tick s.params) }

/-- The ARP request frame of 41_arp_cache.md R152. -/
def arpRequestFrame (s : State) (ip : IpAddr) : List Byte :=
  ethFrame s.params macBcast s.ident.ownMac etherTypeArp
    (arpBody arpOpRequest s.ident.ownMac s.ident.ownIp 0#48 ip)

/-- `arp_send_request(ip)`, 41_arp_cache.md R152. -/
def arpSendRequest (s : State) (ip : IpAddr) : State × Status := s.sendFrame (arpRequestFrame s ip)

end Sys2Proof.Machine
end

