-- ==== Sys2Proof/Machine/RetryQueueOps.lean ====
section
/-!
DEFINITION. The operations on the retry pool, spec/42_retry_queue.md R170 to R178, which the commands of the retry
queue, the ARP cache and the bridge share.
-/

namespace Sys2Proof.Machine

/-- `next_hop(d)`, 42_retry_queue.md R171. -/
def nextHop (s : State) (d : IpAddr) : IpAddr :=
  if d &&& s.ident.ownMask = s.ident.ownIp &&& s.ident.ownMask then d else s.ident.gatewayIp

/-- The lowest-numbered free slot (42_retry_queue.md R170). -/
def rqFreeSlot (t : List RqSlot) : Option Nat := t.findIdx? (fun e => !e.used)

/-- `rq_enqueue(d, P)`, 42_retry_queue.md R172. -/
def rqEnqueue (s : State) (d : IpAddr) (packet : List Byte) : State × Status :=
  if packet.length < 20 ∨ s.params.ipMaxLen < packet.length then (s.count .txDiscard, .discarded)
  else if nextHop s d = 0#32 then (s.count .noRoute, .noRoute)
  else
    match rqFreeSlot s.rq with
    | none => (s.count .rqFull, .queueFull)
    | some i =>
      let slot : RqSlot := ⟨true, packet, BitVec.ofNat 16 packet.length, nextHop s d, s.params.rqLife⟩
      let r := arpSendRequest { s with rq := s.rq.set i slot } (nextHop s d)
      (r.1, if r.2 = .txFail then .txFail else .queued)

/-- Whether a slot expires on this tick: used, and its `life` is 0 after the decrement (42_retry_queue.md R176). -/
def RqSlot.expires (e : RqSlot) : Bool := e.used && down e.life == 0#32

/-- One slot under `rq_tick` (42_retry_queue.md R176; log 7). -/
def RqSlot.tick (e : RqSlot) : RqSlot :=
  if e.used then (if down e.life = 0#32 then RqSlot.zero else { e with life := down e.life }) else e

/-- `rq_tick()`, 42_retry_queue.md R176: each expiring slot is counted. -/
def rqTick (s : State) : State :=
  { s with
    rq := s.rq.map RqSlot.tick,
    stats := { s.stats with rqExpired := s.stats.rqExpired + BitVec.ofNat 32 (s.rq.countP RqSlot.expires) } }

/-- Whether a flush for `ip` takes a slot (42_retry_queue.md R178). -/
def RqSlot.awaits (ip : IpAddr) (e : RqSlot) : Bool := e.used && e.destIp == ip

/-- The frame a flushed slot leaves in (42_retry_queue.md R178). -/
def flushFrame (s : State) (m : MacAddr) (e : RqSlot) : List Byte :=
  ethFrame s.params m s.ident.ownMac etherTypeIp (e.ipPacket.take e.pktLen.toNat)

/-- Sends every matching slot's packet in ascending slot order; `TX_FAIL` if any answer was `err`
(42_retry_queue.md R178). -/
def flushSends (m : MacAddr) : List RqSlot → State → State × Status
  | [], s => (s, .ok)
  | e :: rest, s =>
    let r := s.sendFrame (flushFrame s m e)
    let r' := flushSends m rest r.1
    (r'.1, if r.2 = .txFail then .txFail else r'.2)

/-- `rq_flush(ip, m)`, 42_retry_queue.md R178: the matching slots are freed whether or not their send succeeded. -/
def rqFlush (s : State) (ip : IpAddr) (m : MacAddr) : State × Status :=
  let r := flushSends m (s.rq.filter (RqSlot.awaits ip)) s
  ({ r.1 with rq := s.rq.map (fun e => if e.awaits ip then RqSlot.zero else e) }, r.2)

end Sys2Proof.Machine
end

