-- ==== Sys2Proof/Machine/Arp.lean ====
section
/-!
DEFINITION. The ARP Cache, spec/41_arp_cache.md: `ARP.LOOKUP`, `ARP.UPDATE`, `ARP.AGE`, `ARP.REQ`, `ARP.RX`.
-/

namespace Sys2Proof.Machine

/-- `arp_handle_frame(F)`, 41_arp_cache.md R154. -/
def arpHandleFrame (s : State) (f : List Byte) : State × Status :=
  match arpDecode f with
  | none => (s.count .rxDiscard, .discarded)
  | some a =>
    let s1 := (arpUpdate s a.spa a.sha 0#16).1
    if a.oper = arpOpRequest ∧ s1.ident.ownIp ≠ 0#32 ∧ a.tpa = s1.ident.ownIp then
      s1.sendFrame (ethFrame s1.params a.sha s1.ident.ownMac etherTypeArp
        (arpBody arpOpReply s1.ident.ownMac s1.ident.ownIp a.sha a.spa))
    else if a.oper = arpOpReply ∧ s1.ident.ownIp ≠ 0#32 ∧ a.tpa = s1.ident.ownIp then
      rqFlush s1 a.spa a.sha
    else (s1, .ok)

/-- `ARP.LOOKUP`, 41_arp_cache.md R142: on a miss `RES_MAC` is unchanged. -/
def execArpLookup (s : State) : Result :=
  whenAttached s <|
    match arpLookup s s.port.opIp with
    | none => finish (s, .miss)
    | some m => finish ({ s with port := { s.port with resMac := m } }, .ok)

/-- `ARP.UPDATE`, 41_arp_cache.md R146. -/
def execArpUpdate (s : State) : Result :=
  whenAttached s <| finish (arpUpdate s s.port.opIp s.port.opMac s.port.opAge)

/-- `ARP.AGE`, 41_arp_cache.md R150. -/
def execArpAge (s : State) : Result :=
  whenAttached s <| finish (arpAgeTick s, .ok)

/-- `ARP.REQ`, 41_arp_cache.md R152. -/
def execArpReq (s : State) : Result :=
  whenAttached s <| finish (arpSendRequest s s.port.opIp)

/-- `ARP.RX`, 41_arp_cache.md R154. -/
def execArpRx (s : State) : Result :=
  whenAttached s <| withBufA s fun f => finish (arpHandleFrame s f)

end Sys2Proof.Machine
end

