-- ==== Sys2Proof/Machine/Dhcp.lean ====
section
/-!
DEFINITION. The DHCP Client, spec/44_dhcp.md: `DH.TICK`, `DH.RX`, `DH.REL`.
-/

namespace Sys2Proof.Machine

/-! ### Message construction (44_dhcp.md R230 to R233) -/

/-- The five messages of 44_dhcp.md R233. -/
inductive DhMessage where
  | discover
  | requestSelecting
  | requestRenewing
  | requestRebinding
  | release
deriving DecidableEq, Repr

/-- The option bytes of each message (44_dhcp.md R233). -/
def dhOptions (d : Dhcp) : DhMessage → List Byte
  | .discover => [53#8, 1#8, 1#8, 55#8, 2#8, 1#8, 3#8]
  | .requestSelecting =>
    [53#8, 1#8, 3#8, 50#8, 4#8] ++ bytes32 d.address ++ [54#8, 4#8] ++ bytes32 d.dhcpServer
      ++ [55#8, 2#8, 1#8, 3#8]
  | .requestRenewing => [53#8, 1#8, 3#8, 55#8, 2#8, 1#8, 3#8]
  | .requestRebinding => [53#8, 1#8, 3#8, 55#8, 2#8, 1#8, 3#8]
  | .release => [53#8, 1#8, 7#8, 54#8, 4#8] ++ bytes32 d.dhcpServer

/-- `dh_message(ciaddr, opts)`, 44_dhcp.md R231. -/
def dhMessage (s : State) (ciaddr : IpAddr) (opts : List Byte) : List Byte :=
  let m := [bootRequest, 1#8, 6#8, 0#8] ++ bytes32 s.dhcp.transactionId ++ bytes16 0#16 ++ bytes16 0#16
    ++ bytes32 ciaddr ++ zeros 12 ++ bytes48 s.ident.ownMac ++ zeros 10 ++ zeros 64 ++ zeros 128
    ++ dhcpCookie ++ opts ++ [255#8]
  m ++ zeros (s.params.dhcpMsgLen - m.length)

/-- The UDP datagram of `dh_frame`, checksum computed from scratch and never stored as 0 (44_dhcp.md R232). -/
def dhDatagram (p : Params) (src dst : IpAddr) (m : List Byte) : List Byte :=
  let u := bytes16 p.dhcpClientPort ++ bytes16 p.dhcpServerPort ++ bytes16 (BitVec.ofNat 16 (8 + m.length))
    ++ bytes16 0#16 ++ m
  let c := checksum (pseudo src dst protoUdp u.length ++ u)
  put16 u 6 (if c = 0#16 then 0xFFFF#16 else c)

/-- The IP header of `dh_frame`, checksum computed from scratch (44_dhcp.md R232). -/
def dhIpHeader (p : Params) (src dst : IpAddr) (udpLen : Nat) : List Byte :=
  let h := [0x45#8, 0x00#8] ++ bytes16 (BitVec.ofNat 16 (20 + udpLen)) ++ bytes16 0#16 ++ bytes16 0#16
    ++ [p.ipTtlDefault, protoUdp] ++ bytes16 0#16 ++ bytes32 src ++ bytes32 dst
  put16 h 10 (checksum h)

/-- `dh_frame(dmac, src, dst, M)`, 44_dhcp.md R232. -/
def dhFrame (s : State) (dmac : MacAddr) (src dst : IpAddr) (m : List Byte) : List Byte :=
  let u := dhDatagram s.params src dst m
  ethFrame s.params dmac s.ident.ownMac etherTypeIp (dhIpHeader s.params src dst u.length ++ u)

/-- The frame of a message, `none` where the link address of a unicast message is not in the ARP cache
(44_dhcp.md R233). -/
def dhMessageFrame (s : State) (k : DhMessage) : Option (List Byte) :=
  match k with
  | .discover => some (dhFrame s macBcast 0#32 ipBcast (dhMessage s 0#32 (dhOptions s.dhcp .discover)))
  | .requestSelecting =>
    some (dhFrame s macBcast 0#32 ipBcast (dhMessage s 0#32 (dhOptions s.dhcp .requestSelecting)))
  | .requestRenewing =>
    (arpLookup s s.dhcp.dhcpServer).map fun m =>
      dhFrame s m s.ident.ownIp s.dhcp.dhcpServer (dhMessage s s.ident.ownIp (dhOptions s.dhcp .requestRenewing))
  | .requestRebinding =>
    some (dhFrame s macBcast s.ident.ownIp ipBcast
      (dhMessage s s.ident.ownIp (dhOptions s.dhcp .requestRebinding)))
  | .release =>
    (arpLookup s s.dhcp.dhcpServer).map fun m =>
      dhFrame s m s.ident.ownIp s.dhcp.dhcpServer (dhMessage s s.ident.ownIp (dhOptions s.dhcp .release))

/-- `dh_send` of a message; one whose link address is missing is not sent, and the transition proceeds (44_dhcp.md R232,
R233). -/
def dhSend (s : State) (k : DhMessage) : State × Status :=
  match dhMessageFrame s k with
  | none => (s, .ok)
  | some f => s.sendFrame f

/-! ### Register updates -/

/-- Writes the DHCP registers. -/
def State.setDhcp (s : State) (d : Dhcp) : State := { s with dhcp := d }

/-- `dh_clear()`, 44_dhcp.md R258. -/
def dhClear (s : State) : State :=
  { s with
    ident := { s.ident with ownIp := 0#32, ownMask := 0#32, gatewayIp := 0#32 },
    dhcp := { s.dhcp with
      address := 0#32, mask := 0#32, gateway := 0#32, leaseSeconds := 0#32, renewAt := 0#32, rebindAt := 0#32,
      retryWait := 0#16, retryBackoff := 0#16 } }

/-- `dh_clear(); dh.state <- Off` (44_dhcp.md R254, R259). -/
def dhClearToOff (s : State) : State :=
  let s1 := dhClear s
  s1.setDhcp { s1.dhcp with state := .off }

/-- `dh_set_timers(O)` with the lease `L = O[51]` (44_dhcp.md R255). -/
def dhSetTimers (d : Dhcp) (opts : List (Byte × List Byte)) (lease : BitVec 32) : Dhcp :=
  { d with
    leaseSeconds := lease,
    renewAt := (optWord opts 58#8).getD (lease >>> 1),
    rebindAt := (optWord opts 59#8).getD (lease - (lease >>> 3)) }

/-! ### The tick event (44_dhcp.md R248 to R260) -/

/-- `dh.retry_backoff <- DHCP_BACKOFF_INIT; dh.retry_wait <- DHCP_BACKOFF_INIT` (44_dhcp.md R250, R251). -/
def dhArmBackoff (s : State) : State :=
  s.setDhcp { s.dhcp with retryBackoff := s.params.dhcpBackoffInit, retryWait := s.params.dhcpBackoffInit }

/-- `dh_start()`, 44_dhcp.md R250. -/
def dhStart (s : State) : State × Status :=
  let r := dhSend (s.setDhcp { s.dhcp with transactionId := s.port.xidIn, state := .selecting }) .discover
  (dhArmBackoff r.1, r.2)

/-- `min(2 * dh.retry_backoff, DHCP_BACKOFF_MAX)` (44_dhcp.md R252). -/
def dhNextBackoff (p : Params) (b : BitVec 16) : BitVec 16 :=
  BitVec.ofNat 16 (min (2 * b.toNat) p.dhcpBackoffMax.toNat)

/-- `dh_retry(kind)`, 44_dhcp.md R252, R256. -/
def dhRetry (s : State) (k : DhMessage) : State × Status :=
  let s1 := s.setDhcp { s.dhcp with retryWait := down s.dhcp.retryWait }
  if s1.dhcp.retryWait ≠ 0#16 then (s1, .ok)
  else
    let r := dhSend s1 k
    let b := dhNextBackoff r.1.params r.1.dhcp.retryBackoff
    (r.1.setDhcp { r.1.dhcp with retryBackoff := b, retryWait := b }, r.2)

/-- `dh_renew()`, 44_dhcp.md R257. -/
def dhRenew (s : State) : State × Status :=
  dhSend (s.setDhcp { s.dhcp with state := .renewing }) .requestRenewing

/-- `dh_rebind()`, 44_dhcp.md R260. -/
def dhRebind (s : State) : State × Status :=
  dhSend (s.setDhcp { s.dhcp with state := .rebinding }) .requestRebinding

/-- The three lease counters counted down (44_dhcp.md R248, R249). -/
def dhCountDown (s : State) : State :=
  s.setDhcp { s.dhcp with
    leaseSeconds := down s.dhcp.leaseSeconds, renewAt := down s.dhcp.renewAt, rebindAt := down s.dhcp.rebindAt }

/-- `dh_tick()` in a bound state: expiry is tested before renewal and rebinding (44_dhcp.md R248). -/
def dhTickBound (s : State) : State × Status :=
  let s1 := dhCountDown s
  if s1.dhcp.leaseSeconds = 0#32 then (dhClearToOff s1, .ok)
  else if s1.dhcp.state = .bound ∧ s1.dhcp.renewAt = 0#32 then dhRenew s1
  else if s1.dhcp.state = .renewing ∧ s1.dhcp.rebindAt = 0#32 then dhRebind s1
  else (s1, .ok)

/-- `dh_tick()` in `Off` (and in the encodings 6 and 7, 44_dhcp.md R263). -/
def dhTickOff (s : State) : State × Status :=
  if s.ctrl.dhcpWant then dhStart s else (s, .ok)

/-- `dh_tick()`, 44_dhcp.md R248. -/
def dhTick (s : State) : State × Status :=
  match s.dhcp.state with
  | .off => dhTickOff s
  | .backingOff => dhTickOff s
  | .unused7 => dhTickOff s
  | .selecting => dhRetry s .discover
  | .requesting => dhRetry s .requestSelecting
  | .bound => dhTickBound s
  | .renewing => dhTickBound s
  | .rebinding => dhTickBound s

/-! ### The receive event (44_dhcp.md R240 to R261) -/

/-- What a datagram that passes every common test of 44_dhcp.md R240 carries. -/
structure DhReply where
  /-- The Ethernet source, `F[6:12]`. -/
  frameSrc : MacAddr
  /-- The IP source, `P.src`. -/
  ipSrc : IpAddr
  /-- `yiaddr`. -/
  yiaddr : IpAddr
  /-- The options. -/
  opts : List (Byte × List Byte)
  /-- The message type, `O[53]`. -/
  msgType : Byte
deriving DecidableEq, Repr

/-- The tests on the BOOTP message `M` and its options (44_dhcp.md R240). -/
def dhCheckMessage (s : State) (frameSrc : MacAddr) (ipSrc : IpAddr) (m : List Byte) : Option DhReply :=
  if 240 ≤ m.length ∧ byteAt m 0 = bootReply ∧ byteAt m 1 = 1#8 ∧ byteAt m 2 = 6#8 ∧ be48 m 28 = s.ident.ownMac
      ∧ be32 m 4 = s.dhcp.transactionId ∧ slice m 236 240 = dhcpCookie then
    match optsParse m.length (m.drop 240) with
    | none => none
    | some opts => (optByte opts 53#8).map fun t => ⟨frameSrc, ipSrc, be32 m 16, opts, t⟩
  else none

/-- The tests on the UDP datagram `u` of a packet with header `h` (44_dhcp.md R240). -/
def dhCheckUdp (s : State) (frameSrc : MacAddr) (h : IpHeader) (u : List Byte) : Option DhReply :=
  match udpDecode u with
  | none => none
  | some x =>
    if x.len.toNat = u.length ∧ x.sport = s.params.dhcpServerPort ∧ x.dport = s.params.dhcpClientPort
        ∧ udpOk h u = true then
      dhCheckMessage s frameSrc h.src (u.drop 8)
    else none

/-- The common validation of `dh_receive(F)`: `none` for any failed test (44_dhcp.md R240, R244). -/
def dhValidate (s : State) (f : List Byte) : Option DhReply :=
  if 14 ≤ f.length ∧ be16 f 12 = etherTypeIp then
    match ipDecode (f.drop 14) with
    | none => none
    | some h =>
      let pkt := (f.drop 14).take h.tl
      if ipHeaderOk h pkt = true ∧ h.proto = protoUdp ∧ h.fragOff = 0#13 ∧ h.mf = false then
        dhCheckUdp s (be48 f 6) h (pkt.drop h.hl)
      else none
  else none

/-- A discarded datagram: counted, nothing else (44_dhcp.md R244). -/
def dhDiscard (s : State) : State × Status := (s.count .dhcpDiscard, .discarded)

/-- `dh_offer(P, yi, O)`, 44_dhcp.md R251. -/
def dhOffer (s : State) (r : DhReply) : State × Status :=
  let server := (optWord r.opts 54#8).getD r.ipSrc
  let x := dhSend (s.setDhcp { s.dhcp with address := r.yiaddr, dhcpServer := server, state := .requesting })
    .requestSelecting
  (dhArmBackoff x.1, x.2)

/-- The registers `dh_commit` writes before it announces the binding (44_dhcp.md R255). -/
def dhInstall (s : State) (opts : List (Byte × List Byte)) (lease : BitVec 32) : State :=
  let mask := optWord opts 1#8
  let router := optWord opts 3#8
  { s with
    ident := { s.ident with
      ownIp := s.dhcp.address, ownMask := mask.getD s.ident.ownMask, gatewayIp := router.getD s.ident.gatewayIp },
    dhcp := { dhSetTimers s.dhcp opts lease with
      mask := mask.getD s.dhcp.mask, gateway := router.getD s.dhcp.gateway, retryWait := 0#16, state := .bound } }

/-- The gratuitous ARP reply that announces `own_ip` (44_dhcp.md R255). -/
def gratuitousArp (s : State) : List Byte :=
  ethFrame s.params macBcast s.ident.ownMac etherTypeArp
    (arpBody arpOpReply s.ident.ownMac s.ident.ownIp macBcast s.ident.ownIp)

/-- `dh_commit(F, O)`, 44_dhcp.md R253, R255. -/
def dhCommit (s : State) (r : DhReply) (lease : BitVec 32) : State × Status :=
  let s1 := dhInstall s r.opts lease
  let x := s1.sendFrame (gratuitousArp s1)
  ((arpUpdate x.1 x.1.dhcp.dhcpServer r.frameSrc x.1.params.arpStaticAge).1, x.2)

/-- `dh_ack_renew(O)`, 44_dhcp.md R261. -/
def dhAckRenew (s : State) (r : DhReply) (lease : BitVec 32) : State × Status :=
  (s.setDhcp { dhSetTimers s.dhcp r.opts lease with state := .bound }, .ok)

/-- The tests on an ACK and its effect (44_dhcp.md R240): the requested address and a lease time. -/
def dhAckWith (s : State) (r : DhReply) (k : BitVec 32 → State × Status) : State × Status :=
  match optWord r.opts 51#8 with
  | none => dhDiscard s
  | some lease => if r.yiaddr = s.dhcp.address then k lease else dhDiscard s

/-- The dispatch of `dh_receive` on (state, message type), 44_dhcp.md R240, R245, R265. -/
def dhDispatch (s : State) (r : DhReply) : State × Status :=
  match s.dhcp.state with
  | .selecting =>
    if r.msgType = dhcpOffer then (if r.yiaddr ≠ 0#32 then dhOffer s r else dhDiscard s) else (s, .ok)
  | .requesting =>
    if r.msgType = dhcpAck then dhAckWith s r (dhCommit s r)
    else if r.msgType = dhcpNak then (dhClearToOff s, .ok)
    else (s, .ok)
  | .renewing => if r.msgType = dhcpAck then dhAckWith s r (dhAckRenew s r) else (s, .ok)
  | .rebinding => if r.msgType = dhcpAck then dhAckWith s r (dhAckRenew s r) else (s, .ok)
  | .off => (s, .ok)
  | .bound => (s, .ok)
  | .backingOff => (s, .ok)
  | .unused7 => (s, .ok)

/-- `dh_receive(F)`, 44_dhcp.md R240. -/
def dhReceive (s : State) (f : List Byte) : State × Status :=
  match dhValidate s f with
  | none => dhDiscard s
  | some r => dhDispatch s r

/-! ### The release event (44_dhcp.md R262) -/

/-- `dh_release()` without its last two writes, by state (44_dhcp.md R262, R263). -/
def dhReleaseBody (s : State) : State × Status :=
  match s.dhcp.state with
  | .bound => let r := dhSend s .release; (dhClear r.1, r.2)
  | .renewing => let r := dhSend s .release; (dhClear r.1, r.2)
  | .rebinding => let r := dhSend s .release; (dhClear r.1, r.2)
  | .selecting => (dhClear s, .ok)
  | .requesting => (dhClear s, .ok)
  | .off => (s, .ok)
  | .backingOff => (s, .ok)
  | .unused7 => (s, .ok)

/-- `dh_release()`, 44_dhcp.md R262. -/
def dhRelease (s : State) : State × Status :=
  let r := dhReleaseBody s
  ({ r.1 with dhcp := { r.1.dhcp with state := .off }, ctrl := { r.1.ctrl with dhcpWant := false } }, r.2)

/-- `DH.TICK`, 44_dhcp.md R248. -/
def execDhTick (s : State) : Result :=
  whenAttached s <| finish (dhTick s)

/-- `DH.RX`, 44_dhcp.md R240. -/
def execDhRx (s : State) : Result :=
  whenAttached s <| withBufA s fun f => finish (dhReceive s f)

/-- `DH.REL`, 44_dhcp.md R262. -/
def execDhRel (s : State) : Result :=
  whenAttached s <| finish (dhRelease s)

end Sys2Proof.Machine
end

