-- ==== Sys2Proof/Machine/Translator.lean ====
section
/-!
DEFINITION. The Header/Payload Translator, spec/43_translator.md: `XL.OUT`, `XL.IN`, `PM.TICK`. A packet under
translation is held as its IP header `hdr = P[0:hl]` and its segment `seg = P[hl:tl]`.
-/

namespace Sys2Proof.Machine

/-! ### The port map (43_translator.md R198, R215, R216) -/

/-- Whether an entry is the flow's: the ports match and it is not free (43_translator.md R198). -/
def PmapEntry.isFlow (sp dp : BitVec 16) (e : PmapEntry) : Bool :=
  e.srcPort == sp && e.dstPort == dp && !e.isFree

/-- `pmap_find(sp, dp)`: the lowest matching index (43_translator.md R198). -/
def pmapFind (t : List PmapEntry) (sp dp : BitVec 16) : Option Nat := t.findIdx? (PmapEntry.isFlow sp dp)

/-- The lowest free entry (43_translator.md R204). -/
def pmapFreeSlot (t : List PmapEntry) : Option Nat := t.findIdx? PmapEntry.isFree

/-- `pmap[e]` of a found entry. -/
def pmapGet (s : State) (e : Nat) : PmapEntry := s.pmap.getD e PmapEntry.zero

/-- Clears an entry (10_state.md R35). -/
def State.clearFlow (s : State) (e : Nat) : State := { s with pmap := s.pmap.set e PmapEntry.zero }

/-- Arms the close timer of a flow whose segment carries FIN or RST (43_translator.md R199, R210, R215). -/
def State.armClose (s : State) (e : Option Nat) (t : TcpHeader) : State :=
  match e with
  | none => s
  | some i =>
    if t.fin || t.rst then
      { s with pmap := s.pmap.modify i (fun x => { x with closeTimer := s.params.pmapCloseTicks }) }
    else s

/-- One entry under `pmap_tick` (43_translator.md R216). -/
def PmapEntry.tick (e : PmapEntry) : PmapEntry :=
  if e.isFree || e.closeTimer == 0#16 then e
  else if e.closeTimer - 1#16 = 0#16 then PmapEntry.zero
  else { e with closeTimer := e.closeTimer - 1#16 }

/-- `pmap_tick()`, 43_translator.md R216. -/
def pmapTick (s : State) : State := { s with pmap := s.pmap.map PmapEntry.tick }

/-! ### The address rewrite (43_translator.md R191 to R197) -/

/-- The IP header with its address at `off` replaced and its checksum adjusted (43_translator.md R191, R193). -/
def rewriteIpHeader (p : Params) (hdr : List Byte) (off : Nat) (csum : BitVec 16) (old new : IpAddr) : List Byte :=
  put32 (put16 hdr 10 (adjustCsum p csum (bytes32 old) (bytes32 new))) off new

/-- The UDP checksum for an address change: 0 stays 0 (43_translator.md R196). -/
def rewriteUdp (p : Params) (seg : List Byte) (u : UdpHeader) (old new : IpAddr) : List Byte :=
  if u.csum = 0#16 then seg else put16 seg 6 (adjustCsum p u.csum (bytes32 old) (bytes32 new))

/-- The TCP checksum field replaced by its adjustment for a change of checksummed bytes (43_translator.md R195, R199,
R203, R210). -/
def adjustTcp (p : Params) (seg old new : List Byte) : List Byte :=
  put16 seg 16 (adjustCsum p (be16 seg 16) old new)

/-! ### The FTP `PORT` rewrite (43_translator.md R200 to R205) -/

/-- The decimal number a digit string denotes. -/
def decimalValue (ds : List Byte) : Nat := ds.foldl (fun n d => 10 * n + (d.toNat - 0x30)) 0

/-- One octet and its comma: 1 to 3 digits, at most 255, then `','`; answers what follows the comma
(43_translator.md R201). -/
def parseOctet (y : List Byte) : Option (List Byte) :=
  let ds := y.takeWhile isAsciiDigit
  match y.dropWhile isAsciiDigit with
  | [] => none
  | c :: rest =>
    if 1 ≤ ds.length ∧ ds.length ≤ 3 ∧ decimalValue ds ≤ 255 ∧ c = asciiComma then some rest else none

/-- `Y[k:]` after the four octets of a `PORT` command, `none` on a parse failure (43_translator.md R201). -/
def parsePort (y : List Byte) : Option (List Byte) :=
  if y.take 5 = asciiPort then
    parseOctet (y.drop 5) >>= parseOctet >>= parseOctet >>= parseOctet
  else none

/-- The number of one octet of an address, octet 0 the most significant. -/
def octet (ip : IpAddr) (k : Nat) : Nat := (ip.extractLsb' (24 - 8 * k) 8).toNat

/-- `Y2` of 43_translator.md R202: the command with the octets of `own_ip` and the untouched rest of the line. -/
def portCommand (ip : IpAddr) (rest : List Byte) : List Byte :=
  asciiPort ++ dec (octet ip 0) ++ [asciiComma] ++ dec (octet ip 1) ++ [asciiComma] ++ dec (octet ip 2)
    ++ [asciiComma] ++ dec (octet ip 3) ++ [asciiComma] ++ rest

/-- Answer of a translation: the state, the status and the packet, `none` for a drop. -/
abbrev XlResult := State × Status × Option (List Byte)

/-- The different-length rewrite, 43_translator.md R204 and R205, on the header and segment as R199 left them. `e` is the
flow's entry, `y` the payload, `y2` the new payload. -/
def xlOutGrow (s : State) (h : IpHeader) (t : TcpHeader) (hdr seg : List Byte) (e : Option Nat)
    (y y2 : List Byte) : XlResult :=
  let newLen := h.hl + t.hlen + y2.length
  if s.params.ipMaxLen < newLen then (s.count .txDiscard, .discarded, none)
  else
    let delta : BitVec 32 := BitVec.ofInt 32 ((y2.length : Int) - (y.length : Int))
    let hdr1 := put16 (put16 hdr 2 (BitVec.ofNat 16 newLen)) 10 0#16
    let hdr2 := put16 hdr1 10 (checksum hdr1)
    let seg1 := put16 (seg.take t.hlen ++ y2) 16 0#16
    let seg2 := put16 seg1 16 (checksum (pseudo (be32 hdr 12) h.dst protoTcp seg1.length ++ seg1))
    match e with
    | some i =>
      ({ s with pmap := s.pmap.modify i (fun x => { x with seqAdjust := x.seqAdjust + delta, lastSeq := t.seq }) },
        .ok, some (hdr2 ++ seg2))
    | none =>
      match pmapFreeSlot s.pmap with
      | none => (s.count .pmapFull, .pmapFull, none)
      | some i => ({ s with pmap := s.pmap.set i ⟨t.sport, t.dport, 0#16, delta, t.seq⟩ }, .ok, some (hdr2 ++ seg2))

/-- `xl_out_ftp`, 43_translator.md R200 to R204; `t.seq` is the sequence number the host used. -/
def xlOutFtp (s : State) (h : IpHeader) (t : TcpHeader) (hdr seg : List Byte) (e : Option Nat) : XlResult :=
  let y := seg.drop t.hlen
  if t.dport = s.params.ftpCtrlPort ∧ h.mf = false then
    match parsePort y with
    | none => (s, .ok, some (hdr ++ seg))
    | some rest =>
      let y2 := portCommand s.ident.ownIp rest
      if y2.length = y.length then
        (s, .ok, some (hdr ++ (adjustTcp s.params seg y y2).take t.hlen ++ y2))
      else xlOutGrow s h t hdr seg e y y2
  else (s, .ok, some (hdr ++ seg))

/-- The outbound sequence fix of a tracked flow: segments above `last_seq` are shifted by `seq_adjust`, with the checksum
fixed for the four bytes (43_translator.md R199). A segment from between two rewritten `PORT` commands, sent again after the
second, is not above `last_seq` and is not shifted, where 70_reset_and_hazards.md R365 says that it receives the combined
delta (DEDUCED, log 11). -/
def shiftSeq (p : Params) (x : PmapEntry) (t : TcpHeader) (seg : List Byte) : List Byte :=
  if x.lastSeq < t.seq then
    put32 (adjustTcp p seg (bytes32 t.seq) (bytes32 (t.seq + x.seqAdjust))) 4 (t.seq + x.seqAdjust)
  else seg

/-- `xl_out_tcp(P)`, 43_translator.md R199; `t` is the segment's header as the host sent it. -/
def xlOutTcp (s : State) (h : IpHeader) (t : TcpHeader) (hdr seg : List Byte) : XlResult :=
  match pmapFind s.pmap t.sport t.dport with
  | none => xlOutFtp s h t hdr seg none
  | some i =>
    if t.syn then xlOutFtp (s.clearFlow i) h t hdr seg none
    else xlOutFtp (s.armClose (some i) t) h t hdr (shiftSeq s.params (pmapGet s i) t seg) (some i)

/-- `xl_out(P0)`, 43_translator.md R192. -/
def xlOut (s : State) (p0 : List Byte) : XlResult :=
  match ipDecode p0 with
  | none => (s.count .txDiscard, .discarded, none)
  | some h =>
    let pkt := p0.take h.tl
    if s.ident.xlActive = false ∨ h.src ≠ s.ident.externalHostIp then (s, .ok, some pkt)
    else
      let hdr := rewriteIpHeader s.params (pkt.take h.hl) 12 h.csum h.src s.ident.ownIp
      let seg := pkt.drop h.hl
      if h.fragOff ≠ 0#13 then (s, .ok, some (hdr ++ seg))
      else if h.proto = protoUdp then
        match udpDecode seg with
        | none => (s, .ok, some (hdr ++ seg))
        | some u => (s, .ok, some (hdr ++ rewriteUdp s.params seg u h.src s.ident.ownIp))
      else if h.proto = protoTcp then
        match tcpDecode seg with
        | none => (s, .ok, some (hdr ++ seg))
        | some t => xlOutTcp s h t hdr (adjustTcp s.params seg (bytes32 h.src) (bytes32 s.ident.ownIp))
      else (s, .ok, some (hdr ++ seg))

/-- The inbound acknowledgement fix of a tracked flow (43_translator.md R210, R212). -/
def shiftAck (p : Params) (x : PmapEntry) (t : TcpHeader) (seg : List Byte) : List Byte :=
  if t.ackFlag = true ∧ x.lastSeq < t.ack then
    put32 (adjustTcp p seg (bytes32 t.ack) (bytes32 (t.ack - x.seqAdjust))) 8 (t.ack - x.seqAdjust)
  else seg

/-- The TCP part of `xl_in`: the flow is looked up under the reversed port pair (43_translator.md R210, R198). -/
def xlInTcp (s : State) (t : TcpHeader) (hdr seg : List Byte) : XlResult :=
  match pmapFind s.pmap t.dport t.sport with
  | none => (s, .ok, some (hdr ++ seg))
  | some i =>
    if t.syn then (s.clearFlow i, .ok, some (hdr ++ seg))
    else (s.armClose (some i) t, .ok, some (hdr ++ shiftAck s.params (pmapGet s i) t seg))

/-- `xl_in(P0)`, 43_translator.md R210. -/
def xlIn (s : State) (p0 : List Byte) : XlResult :=
  match ipDecode p0 with
  | none => (s.count .rxDiscard, .discarded, none)
  | some h =>
    let pkt := p0.take h.tl
    if s.ident.xlActive = false ∨ h.dst ≠ s.ident.ownIp then (s, .ok, some pkt)
    else
      let hdr := rewriteIpHeader s.params (pkt.take h.hl) 16 h.csum h.dst s.ident.externalHostIp
      let seg := pkt.drop h.hl
      if h.fragOff ≠ 0#13 then (s, .ok, some (hdr ++ seg))
      else if h.proto = protoUdp then
        match udpDecode seg with
        | none => (s, .ok, some (hdr ++ seg))
        | some u => (s, .ok, some (hdr ++ rewriteUdp s.params seg u h.dst s.ident.externalHostIp))
      else if h.proto = protoTcp then
        match tcpDecode seg with
        | none => (s, .ok, some (hdr ++ seg))
        | some t =>
          xlInTcp s t hdr (adjustTcp s.params seg (bytes32 h.dst) (bytes32 s.ident.externalHostIp))
      else (s, .ok, some (hdr ++ seg))

/-- `XL.OUT`, 43_translator.md R192. -/
def execXlOut (s : State) : Result :=
  whenAttached s <| withBufA s fun p0 => storeOut (xlOut s p0)

/-- `XL.IN`, 43_translator.md R210. -/
def execXlIn (s : State) : Result :=
  whenAttached s <| withBufA s fun p0 => storeOut (xlIn s p0)

/-- `PM.TICK`, 43_translator.md R216. -/
def execPmTick (s : State) : Result :=
  whenAttached s <| finish (pmapTick s, .ok)

end Sys2Proof.Machine
end

