-- ==== Sys2Proof/Machine/Bridge.lean ====
section
/-!
DEFINITION. The Protocol Bridge, spec/45_bridge.md: `ATTACH`, `DETACH`, `TICK`, `RX`, `TX`, `CSR.WR`, `CSR.RD`.
-/

namespace Sys2Proof.Machine

/-! ### Life cycle (45_bridge.md R290 to R293) -/

/-- The three tables rebuilt from zero (45_bridge.md R292, R293). -/
def State.clearTables (s : State) : State :=
  { s with
    arp := List.replicate s.params.arpCapacity ArpEntry.zero,
    rq := List.replicate s.params.rqPool RqSlot.zero,
    pmap := List.replicate s.params.pmapCapacity PmapEntry.zero }

/-- The state `ATTACH` leaves, before its event and status (45_bridge.md R292). -/
def attachState (s : State) : State :=
  { s.clearTables with dhcp := Dhcp.zero, stats := Counters.zero, ctrl := { s.ctrl with attached := true } }

/-- `ATTACH`, 45_bridge.md R292. -/
def execAttach (s : State) : Result :=
  if s.ctrl.attached then finish (s, .attached)
  else finish ((attachState s).emit (.setFilter s.ident.ownMac []), .ok)

/-- `DETACH`, 45_bridge.md R293: the release runs first. -/
def execDetach (s : State) : Result :=
  whenAttached s <|
    let r := dhRelease s
    finish ({ r.1.clearTables with dhcp := Dhcp.zero, ctrl := { r.1.ctrl with attached := false } }, r.2)

/-! ### `TICK` (45_bridge.md R294) -/

/-- `TICK`: ARP ageing, DHCP timers, retry queue ageing, port-map timers, in that order (45_bridge.md R294). -/
def execTick (s : State) : Result :=
  whenAttached s <|
    let r := dhTick (arpAgeTick s)
    finish (pmapTick (rqTick r.1), r.2)

/-! ### `RX` (45_bridge.md R295 to R297, R303) -/

/-- A discarded frame: counted, nothing else (45_bridge.md R296). -/
def rxDiscard (s : State) : State × Status := (s.count .rxDiscard, .discarded)

/-- Whether a frame goes to the DHCP client: Ethernet destination broadcast or ours, unfragmented UDP from the server
port to the client port (45_bridge.md R295). -/
def isDhcpFrame (s : State) (f : List Byte) (h : IpHeader) (seg : List Byte) : Bool :=
  (be48 f 0 == macBcast || be48 f 0 == s.ident.ownMac) && h.proto == protoUdp && h.fragOff == 0#13 && !h.mf
    && (match udpDecode seg with
        | none => false
        | some u => u.sport == s.params.dhcpServerPort && u.dport == s.params.dhcpClientPort)

/-- Whether an IP packet is for the host (45_bridge.md R295). -/
def isForHost (s : State) (h : IpHeader) : Bool :=
  (s.ident.ownIp != 0#32 && h.dst == s.ident.ownIp) || h.dst == ipBcast

/-- Translation and delivery of an inbound packet (45_bridge.md R295). -/
def deliverIn (s : State) (pkt : List Byte) : State × Status :=
  match xlIn s pkt with
  | (s1, _, some q) => (s1.emit (.hostDeliver q), .ok)
  | (s1, st, none) => (s1, st)

/-- The IP branch of `bridge_rx` (45_bridge.md R295, R297). -/
def bridgeRxIp (s : State) (f : List Byte) : State × Status :=
  match ipDecode (f.drop 14) with
  | none => rxDiscard s
  | some h =>
    let pkt := (f.drop 14).take h.tl
    if isDhcpFrame s f h (pkt.drop h.hl) then dhReceive s f
    else if isForHost s h then deliverIn s pkt
    else rxDiscard s

/-- `bridge_rx(F)`, 45_bridge.md R295. -/
def bridgeRx (s : State) (f : List Byte) : State × Status :=
  if f.length < 14 ∨ s.params.ethMaxPacket < f.length then rxDiscard s
  else if be16 f 12 = etherTypeArp then arpHandleFrame s f
  else if be16 f 12 = etherTypeIp then bridgeRxIp s f
  else rxDiscard s

/-- `RX`, 45_bridge.md R295. -/
def execRx (s : State) : Result :=
  whenAttached s <| withBufA s fun f => finish (bridgeRx s f)

/-! ### `TX` (45_bridge.md R298 to R302) -/

/-- A dropped host packet: counted, nothing else (45_bridge.md R299). -/
def txDrop (s : State) (st : Status) : State × Status := (s.count .txDiscard, st)

/-- Routing of a translated packet: resolve and send, or enqueue (45_bridge.md R298, R301). -/
def bridgeRoute (s : State) (pkt : List Byte) : State × Status :=
  let d := be32 pkt 16
  if nextHop s d = 0#32 then (s.count .noRoute, .noRoute)
  else
    match arpLookup s (nextHop s d) with
    | some m => s.sendFrame (ethFrame s.params m s.ident.ownMac etherTypeIp pkt)
    | none => rqEnqueue s d pkt

/-- `bridge_tx(P0)` after `rfnm_count` was incremented (45_bridge.md R298). What `xl_out` wrote to the port map stays
written whatever the routing then answers, also `NO_ROUTE`, `QUEUE_FULL` and `TX_FAIL`, which 60_exceptions.md R325 does not
list (DEDUCED, log 10). -/
def bridgeTxBody (s : State) (p0 : List Byte) : State × Status :=
  match ipDecode p0 with
  | none => txDrop s .discarded
  | some h =>
    if s.params.ipMaxLen < h.tl then txDrop s .discarded
    else if s.ident.ownIp = 0#32 then txDrop s .noAddress
    else
      match xlOut s p0 with
      | (s1, st, none) => (s1, st)
      | (s1, _, some pkt) => bridgeRoute s1 pkt

/-- `bridge_tx(P0)`, 45_bridge.md R298, R300. -/
def bridgeTx (s : State) (p0 : List Byte) : State × Status := bridgeTxBody (s.count .rfnm) p0

/-- `TX`, 45_bridge.md R298. -/
def execTx (s : State) : Result :=
  whenAttached s <| withBufA s fun p0 => finish (bridgeTx s p0)

/-! ### Configuration surface (45_bridge.md R305, R306) -/

/-- `CSR.WR`, 45_bridge.md R305: accepted attached and detached. -/
def execCsrWr (s : State) : Result :=
  match Csr.ofNumber s.port.opReg with
  | none => finish (s, .illegalCmd)
  | some r => finish (s.writeCsr s.port.opVal r)

/-- `CSR.RD`, 45_bridge.md R306: accepted attached and detached. -/
def execCsrRd (s : State) : Result :=
  match Csr.ofNumber s.port.opReg with
  | none => finish (s, .illegalCmd)
  | some r => finish ({ s with port := { s.port with resVal := s.readCsr r } }, .ok)

end Sys2Proof.Machine
end

