-- ==== Sys2Proof/Machine/RetryQueue.lean ====
section
/-!
DEFINITION. The Retry Queue, spec/42_retry_queue.md: `RQ.ENQ`, `RQ.TICK`, `RQ.FLUSH`.
-/

namespace Sys2Proof.Machine

/-- `RQ.ENQ`, 42_retry_queue.md R172, on the whole operand `BUF_A[0:LEN_A]` (log 9). -/
def execRqEnq (s : State) : Result :=
  whenAttached s <| withBufA s fun p => finish (rqEnqueue s s.port.opIp p)

/-- `RQ.TICK`, 42_retry_queue.md R176. -/
def execRqTick (s : State) : Result :=
  whenAttached s <| finish (rqTick s, .ok)

/-- `RQ.FLUSH`, 42_retry_queue.md R178. -/
def execRqFlush (s : State) : Result :=
  whenAttached s <| finish (rqFlush s s.port.opIp s.port.opMac)

end Sys2Proof.Machine
end

