-- ==== Sys2Proof/Machine/Dispatch.lean ====
section
/-!
DEFINITION. One arm per command of spec/opcode_table.json, each a direct call of its meaning.
-/

namespace Sys2Proof.Machine

def exec (i : Instr) (s : State) : Host.Outcome State Fault Refusal :=
  match i with
  | .attach => Sys2Proof.Machine.execAttach s
  | .detach => Sys2Proof.Machine.execDetach s
  | .tick => Sys2Proof.Machine.execTick s
  | .rx => Sys2Proof.Machine.execRx s
  | .tx => Sys2Proof.Machine.execTx s
  | .csrWr => Sys2Proof.Machine.execCsrWr s
  | .csrRd => Sys2Proof.Machine.execCsrRd s
  | .csum => Sys2Proof.Machine.execCsum s
  | .csadj => Sys2Proof.Machine.execCsadj s
  | .arpLookup => Sys2Proof.Machine.execArpLookup s
  | .arpUpdate => Sys2Proof.Machine.execArpUpdate s
  | .arpAge => Sys2Proof.Machine.execArpAge s
  | .arpReq => Sys2Proof.Machine.execArpReq s
  | .arpRx => Sys2Proof.Machine.execArpRx s
  | .rqEnq => Sys2Proof.Machine.execRqEnq s
  | .rqTick => Sys2Proof.Machine.execRqTick s
  | .rqFlush => Sys2Proof.Machine.execRqFlush s
  | .xlOut => Sys2Proof.Machine.execXlOut s
  | .xlIn => Sys2Proof.Machine.execXlIn s
  | .pmTick => Sys2Proof.Machine.execPmTick s
  | .dhTick => Sys2Proof.Machine.execDhTick s
  | .dhRx => Sys2Proof.Machine.execDhRx s
  | .dhRel => Sys2Proof.Machine.execDhRel s

end Sys2Proof.Machine
end

