-- ==== Sys2Proof/Machine/Step.lean ====
section
/-!
DEFINITION. One step of the machine: the pending command runs to completion (spec/00_scope.md R2, R12), or, while none
is pending, the environment acts once at the command port (10_state.md R45; log 1).
-/

namespace Sys2Proof.Machine

/-- One step. A pending command is accepted, decoded and executed, a reserved opcode ends with `ILLEGAL_CMD`
(30_encoding.md R83); otherwise the environment acts or the engine waits. -/
def step (s : State) : Host.Outcome State Fault Refusal :=
  if s.cmdPending then
    match s.fetched with
    | .ok i => exec i s.accept
    | .error _ => reservedOpcode s.accept
  else envStep s

/-- The instruction stored where the next step fetches it: a write of `CMD` (30_encoding.md R80; log 1). -/
def State.withFetchWord (s : State) (nbits w : Nat) : State :=
  s.writeCmd (BitVec.ofNat 8 (w % 2 ^ nbits))

end Sys2Proof.Machine
end

