-- ==== Sys2Proof/Safety.lean ====
section
/-!
DEFINITION. What counts as a safe run and the invariants of the engine, in the terms the statements use: the spec's
tables of values and its named invariants (10_state.md R30, R33, R37, R39, R41), written apart from the meanings.
-/

namespace Sys2Proof.Machine

/-! ### Small vocabulary -/

/-- The state with `STATUS` at a code of 60_exceptions.md R322. -/
def State.withStatus (s : State) (c : BitVec 8) : State := { s with port := { s.port with status := c } }

/-- The environment's answer to the `j`-th `send` from this state on (20_memory.md R72). -/
def State.answerAt (s : State) (j : Nat) : SendAnswer :=
  match s.answers[j]? with
  | some a => a
  | none => Config.sendAnswer (s.sendCount + j)

/-- The state after one `emit send(F)`: one event, one answer consumed, and `stat_tx_fail` one higher iff that answer
was `err` (60_exceptions.md R326). -/
def State.afterSend (s : State) (frame : List Byte) : State :=
  { s with
    events := s.events ++ [.send frame],
    answers := s.answers.tail,
    sendCount := s.sendCount + 1,
    stats := { s.stats with
      txFail := if s.answerAt 0 = .err then s.stats.txFail + 1#32 else s.stats.txFail } }

/-- `TX_FAIL` (3) if the answer to the next `send` is `err`, else the given code (60_exceptions.md R322, R326). -/
def State.sendCode (s : State) (okCode : BitVec 8) : BitVec 8 := if s.answerAt 0 = .err then 3#8 else okCode

/-- The commands that read `BUF_A` (30_encoding.md R82). -/
def readsBufA : Instr → Bool
  | .rx => true
  | .tx => true
  | .csum => true
  | .csadj => true
  | .arpRx => true
  | .rqEnq => true
  | .xlOut => true
  | .xlIn => true
  | .dhRx => true
  | .attach => false
  | .detach => false
  | .tick => false
  | .csrWr => false
  | .csrRd => false
  | .arpLookup => false
  | .arpUpdate => false
  | .arpAge => false
  | .arpReq => false
  | .rqTick => false
  | .rqFlush => false
  | .pmTick => false
  | .dhTick => false
  | .dhRel => false

/-- The commands accepted whether attached or not, and `ATTACH` (30_encoding.md R84). -/
def acceptedDetached : Instr → Bool
  | .attach => true
  | .csrWr => true
  | .csrRd => true
  | .csum => true
  | .csadj => true
  | .detach => false
  | .tick => false
  | .rx => false
  | .tx => false
  | .arpLookup => false
  | .arpUpdate => false
  | .arpAge => false
  | .arpReq => false
  | .arpRx => false
  | .rqEnq => false
  | .rqTick => false
  | .rqFlush => false
  | .xlOut => false
  | .xlIn => false
  | .pmTick => false
  | .dhTick => false
  | .dhRx => false
  | .dhRel => false

/-- The reserved opcodes as 30_encoding.md R83 lists them. -/
def reservedByList (n : Nat) : Prop :=
  n = 0x00 ∨ n = 0x06 ∨ n = 0x07 ∨ (0x0A ≤ n ∧ n ≤ 0x0F) ∨ (0x12 ≤ n ∧ n ≤ 0x1F) ∨ (0x25 ≤ n ∧ n ≤ 0x2F)
    ∨ (0x33 ≤ n ∧ n ≤ 0x3F) ∨ (0x43 ≤ n ∧ n ≤ 0x4F) ∨ (0x53 ≤ n ∧ n ≤ 0xFF)

/-- `n` times the same command, each on the state the one before left; `none` if one does not answer a next state. -/
def repeatCommand (i : Instr) : Nat → State → Option State
  | 0, s => some s
  | n + 1, s =>
    match exec i s with
    | .next t => repeatCommand i n t
    | .fault _ => none
    | .refused _ => none

/-! ### One's-complement arithmetic, written apart from the folding loop (40_checksum.md R120 to R122) -/

/-- The sum of a byte sequence read as 16-bit big-endian words: a byte at an even offset weighs 256, one at an odd
offset 1 (40_checksum.md R120). -/
def weightedSum : List Byte → Nat
  | [] => 0
  | [x] => 256 * x.toNat
  | x :: y :: rest => 256 * x.toNat + y.toNat + weightedSum rest

/-- The folded sum: 0 only for 0, else the representative in `1 .. 0xFFFF` modulo 0xFFFF (40_checksum.md R122 (c)). -/
def foldedSum (n : Nat) : Nat := if n = 0 then 0 else (n - 1) % 0xFFFF + 1

/-- The checksum as the one's complement of the folded sum. -/
def complementSum (b : List Byte) : BitVec 16 := BitVec.ofNat 16 (0xFFFF - foldedSum (weightedSum b))

/-! ### The spec's frames, values and choices of index, written out apart from the meanings -/

/-- `i` is the lowest index of the list whose entry satisfies `p`. -/
def LowestIndex {α : Type} (l : List α) (p : α → Prop) (i : Nat) : Prop :=
  (∃ e, l[i]? = some e ∧ p e) ∧ ∀ (j : Nat) (e : α), j < i → l[j]? = some e → ¬ p e

/-- The next hop of 42_retry_queue.md R171. -/
def specNextHop (s : State) (d : IpAddr) : IpAddr :=
  if d &&& s.ident.ownMask = s.ident.ownIp &&& s.ident.ownMask then d else s.ident.gatewayIp

/-- The ARP request frame of 41_arp_cache.md R152 byte for byte: 42 bytes, zero padding to `ETH_MIN_PACKET`. -/
def specArpRequest (s : State) (ip : IpAddr) : List Byte :=
  [0xFF#8, 0xFF#8, 0xFF#8, 0xFF#8, 0xFF#8, 0xFF#8] ++ bytes48 s.ident.ownMac ++ [0x08#8, 0x06#8]
    ++ [0x00#8, 0x01#8, 0x08#8, 0x00#8, 0x06#8, 0x04#8, 0x00#8, 0x01#8]
    ++ bytes48 s.ident.ownMac ++ bytes32 s.ident.ownIp ++ zeros 6 ++ bytes32 ip ++ zeros (s.params.ethMinPacket - 42)

/-- The ARP reply frame of 41_arp_cache.md R154 byte for byte. -/
def specArpReply (s : State) (sha : MacAddr) (spa : IpAddr) : List Byte :=
  bytes48 sha ++ bytes48 s.ident.ownMac ++ [0x08#8, 0x06#8]
    ++ [0x00#8, 0x01#8, 0x08#8, 0x00#8, 0x06#8, 0x04#8, 0x00#8, 0x02#8]
    ++ bytes48 s.ident.ownMac ++ bytes32 s.ident.ownIp ++ bytes48 sha ++ bytes32 spa
    ++ zeros (s.params.ethMinPacket - 42)

/-- The gratuitous ARP reply of 44_dhcp.md R255 byte for byte. -/
def specGratuitousArp (s : State) : List Byte :=
  [0xFF#8, 0xFF#8, 0xFF#8, 0xFF#8, 0xFF#8, 0xFF#8] ++ bytes48 s.ident.ownMac ++ [0x08#8, 0x06#8]
    ++ [0x00#8, 0x01#8, 0x08#8, 0x00#8, 0x06#8, 0x04#8, 0x00#8, 0x02#8]
    ++ bytes48 s.ident.ownMac ++ bytes32 s.ident.ownIp
    ++ [0xFF#8, 0xFF#8, 0xFF#8, 0xFF#8, 0xFF#8, 0xFF#8] ++ bytes32 s.ident.ownIp
    ++ zeros (s.params.ethMinPacket - 42)

/-- An IP packet in its Ethernet frame (45_bridge.md R301, 30_encoding.md R90): header, packet, zero padding. -/
def specIpFrame (s : State) (m : MacAddr) (pkt : List Byte) : List Byte :=
  bytes48 m ++ bytes48 s.ident.ownMac ++ [0x08#8, 0x00#8] ++ pkt ++ zeros (s.params.ethMinPacket - (14 + pkt.length))

/-- The well-formedness test of a received ARP frame, at frame offsets (41_arp_cache.md R154, 30_encoding.md R91). -/
def ArpFrameValid (f : List Byte) : Prop :=
  42 ≤ f.length ∧ be16 f 12 = 0x0806#16 ∧ be16 f 14 = 1#16 ∧ be16 f 16 = 0x0800#16
    ∧ byteAt f 18 = 6#8 ∧ byteAt f 19 = 4#8

/-- `BUF_OUT[0:len(Q)] <- Q; LEN_OUT <- len(Q); STATUS <- OK` (43_translator.md R192, R210). -/
def State.withOut (s : State) (q : List Byte) : State :=
  { s with bufOut := s.bufOut.writeBytes 0 q,
           port := { s.port with lenOut := BitVec.ofNat 16 q.length, status := 0#8 } }

/-- The number that one to three ASCII digits denote (43_translator.md R201). -/
def digitsValue : List Byte → Nat
  | [a] => a.toNat - 0x30
  | [a, b] => 10 * (a.toNat - 0x30) + (b.toNat - 0x30)
  | [a, b, c] => 100 * (a.toNat - 0x30) + 10 * (b.toNat - 0x30) + (c.toNat - 0x30)
  | _ => 0

/-- `d` is one to three ASCII digits that denote at most 255 (43_translator.md R201). -/
def OctetDigits (d : List Byte) : Prop :=
  1 ≤ d.length ∧ d.length ≤ 3 ∧ (∀ b ∈ d, 0x30 ≤ b.toNat ∧ b.toNat ≤ 0x39) ∧ digitsValue d ≤ 255

/-- `d` is `n` in decimal without leading zeros (30_encoding.md R101). -/
def IsDecimalOf (d : List Byte) (n : Nat) : Prop :=
  OctetDigits d ∧ digitsValue d = n ∧ (1 < d.length → byteAt d 0 ≠ 0x30#8)

/-- The length of a known DHCP option's data (30_encoding.md R100). -/
def OptionLengthLegal (code : Byte) (n : Nat) : Prop :=
  ((code = 1#8 ∨ code = 50#8 ∨ code = 51#8 ∨ code = 54#8 ∨ code = 58#8 ∨ code = 59#8) → n = 4)
    ∧ (code = 3#8 → 0 < n ∧ n % 4 = 0) ∧ (code = 53#8 → n = 1)

/-- `b` begins with an IPv4 header that passes every test of 30_encoding.md R93 and `h` holds its fields as R92 places them. -/
def Ipv4HeaderOf (b : List Byte) (h : IpHeader) : Prop :=
  20 ≤ b.length ∧ (byteAt b 0).toNat / 16 = 4 ∧ h.hl = 4 * ((byteAt b 0).toNat % 16) ∧ 20 ≤ h.hl ∧ h.hl ≤ b.length
    ∧ h.tl = (be16 b 2).toNat ∧ h.hl ≤ h.tl ∧ h.tl ≤ b.length
    ∧ h.tos = byteAt b 1 ∧ h.ident = be16 b 4 ∧ h.flagsFrag = be16 b 6 ∧ h.ttl = byteAt b 8 ∧ h.proto = byteAt b 9
    ∧ h.csum = be16 b 10 ∧ h.src = be32 b 12 ∧ h.dst = be32 b 16

/-- `l` begins with a TCP header that passes every test of 30_encoding.md R94 and `t` holds the fields the engine reads. -/
def TcpHeaderOf (l : List Byte) (t : TcpHeader) : Prop :=
  20 ≤ l.length ∧ t.hlen = 4 * ((byteAt l 12).toNat / 16) ∧ 20 ≤ t.hlen ∧ t.hlen ≤ l.length
    ∧ t.sport = be16 l 0 ∧ t.dport = be16 l 2 ∧ t.seq = be32 l 4 ∧ t.ack = be32 l 8 ∧ t.flags = byteAt l 13
    ∧ t.csum = be16 l 16

/-- The datagram passes every common test of 44_dhcp.md R240 and `r` holds its fields. -/
def DhcpReplyValid (s : State) (f : List Byte) (r : DhReply) : Prop :=
  let p := f.drop 14
  14 ≤ f.length ∧ be16 f 12 = 0x0800#16 ∧ ∃ h, ipDecode p = some h ∧
    let u := (p.take h.tl).drop h.hl
    let m := u.drop 8
    checksum (p.take h.hl) = 0#16 ∧ h.proto = 17#8 ∧ h.fragOff = 0#13 ∧ h.mf = false
      ∧ 8 ≤ u.length ∧ (be16 u 4).toNat = u.length
      ∧ be16 u 0 = s.params.dhcpServerPort ∧ be16 u 2 = s.params.dhcpClientPort
      ∧ (be16 u 6 = 0#16 ∨ checksum (pseudo h.src h.dst 17#8 u.length ++ u) = 0#16)
      ∧ 240 ≤ m.length ∧ byteAt m 0 = 2#8 ∧ byteAt m 1 = 1#8 ∧ byteAt m 2 = 6#8
      ∧ be48 m 28 = s.ident.ownMac ∧ be32 m 4 = s.dhcp.transactionId
      ∧ slice m 236 240 = [0x63#8, 0x82#8, 0x53#8, 0x63#8]
      ∧ optsParse m.length (m.drop 240) = some r.opts ∧ optByte r.opts 53#8 = some r.msgType
      ∧ r.frameSrc = be48 f 6 ∧ r.ipSrc = be32 p 12 ∧ r.yiaddr = be32 m 16

/-- What the DHCP client zeroes on NAK, expiry and release (44_dhcp.md R258), with `dh.state` at `Off`. -/
def State.dhcpCleared (s : State) : State :=
  { s with
    ident := { s.ident with ownIp := 0#32, ownMask := 0#32, gatewayIp := 0#32 },
    dhcp := { s.dhcp with
      state := .off, address := 0#32, mask := 0#32, gateway := 0#32, leaseSeconds := 0#32, renewAt := 0#32,
      rebindAt := 0#32, retryWait := 0#16, retryBackoff := 0#16 } }

/-- The readable registers and their values, by number (45_bridge.md R306; 10_state.md R24, R25, R38, R44). -/
def specCsrValues (s : State) : List (BitVec 8 × BitVec 48) :=
  [(0x00#8, s.ident.ownMac), (0x01#8, s.ident.ownIp.zeroExtend 48), (0x02#8, s.ident.ownMask.zeroExtend 48),
   (0x03#8, s.ident.gatewayIp.zeroExtend 48), (0x04#8, s.ident.externalHostIp.zeroExtend 48),
   (0x05#8, (if s.ctrl.dhcpWant then 2#48 else 0#48) + (if s.ctrl.attached then 1#48 else 0#48)),
   (0x10#8, match s.dhcp.state with
      | .off => 0#48
      | .selecting => 1#48
      | .requesting => 2#48
      | .bound => 3#48
      | .renewing => 4#48
      | .rebinding => 5#48
      | .backingOff => 6#48
      | .unused7 => 7#48),
   (0x11#8, s.dhcp.transactionId.zeroExtend 48), (0x12#8, s.dhcp.leaseSeconds.zeroExtend 48),
   (0x13#8, s.dhcp.renewAt.zeroExtend 48), (0x14#8, s.dhcp.rebindAt.zeroExtend 48),
   (0x15#8, s.dhcp.retryWait.zeroExtend 48), (0x16#8, s.dhcp.retryBackoff.zeroExtend 48),
   (0x17#8, s.dhcp.address.zeroExtend 48), (0x18#8, s.dhcp.mask.zeroExtend 48),
   (0x19#8, s.dhcp.gateway.zeroExtend 48), (0x1A#8, s.dhcp.dhcpServer.zeroExtend 48),
   (0x20#8, s.stats.rqFull.zeroExtend 48), (0x21#8, s.stats.rqExpired.zeroExtend 48),
   (0x22#8, s.stats.txFail.zeroExtend 48), (0x23#8, s.stats.rxDiscard.zeroExtend 48),
   (0x24#8, s.stats.dhcpDiscard.zeroExtend 48), (0x25#8, s.stats.pmapFull.zeroExtend 48),
   (0x26#8, s.stats.noRoute.zeroExtend 48), (0x27#8, s.stats.arpNospace.zeroExtend 48),
   (0x28#8, s.stats.txDiscard.zeroExtend 48), (0x29#8, s.stats.rfnm.zeroExtend 48)]

/-! ### Invariants -/

/-- The tables have their fixed sizes (10_state.md R27, R31, R34), and the buffers are canonical and lie inside
`BUF_CAP` (10_state.md R48). -/
def ShapeOk (s : State) : Prop :=
  s.arp.length = s.params.arpCapacity ∧ s.rq.length = s.params.rqPool ∧ s.pmap.length = s.params.pmapCapacity
    ∧ s.bufA.wf ∧ s.bufB.wf ∧ s.bufOut.wf
    ∧ (∀ c ∈ s.bufA, c.1 < s.params.bufCap) ∧ (∀ c ∈ s.bufB, c.1 < s.params.bufCap)
    ∧ (∀ c ∈ s.bufOut, c.1 < s.params.bufCap)

/-- At most one ARP entry has any given non-zero `ip` (10_state.md R30 (a)). -/
def ArpUnique (s : State) : Prop :=
  ∀ (i j : Nat) (e f : ArpEntry), s.arp[i]? = some e → s.arp[j]? = some f → e.ip ≠ 0#32 → e.ip = f.ip → i = j

/-- A retry slot between operations: used with a life in `1 .. RQ_LIFE`, a storable packet and a next hop, or free and
zeroed (10_state.md R31, R33; 42_retry_queue.md R170, R172). -/
def RqSlotOk (p : Params) (e : RqSlot) : Prop :=
  if e.used = true then
    1 ≤ e.life.toNat ∧ e.life.toNat ≤ p.rqLife.toNat ∧ e.pktLen.toNat = e.ipPacket.length
      ∧ 20 ≤ e.ipPacket.length ∧ e.ipPacket.length ≤ p.ipMaxLen ∧ e.destIp ≠ 0#32
  else e = RqSlot.zero

/-- Every retry slot is as 10_state.md R31 and R33 say. -/
def RetryPoolOk (s : State) : Prop := ∀ e ∈ s.rq, RqSlotOk s.params e

/-- At most one port-map entry exists per port pair (10_state.md R37). -/
def PortMapUnique (s : State) : Prop :=
  ∀ (i j : Nat) (e f : PmapEntry), s.pmap[i]? = some e → s.pmap[j]? = some f →
    ¬ (e.srcPort = 0#16 ∧ e.dstPort = 0#16) → e.srcPort = f.srcPort → e.dstPort = f.dstPort → i = j

/-- The DHCP client's registers between operations: no unused state value (10_state.md R39), `Off` while detached, an
offered address that is not 0 while requesting, and `own_ip == dh.address != 0` while bound (10_state.md R41). -/
def DhcpOk (s : State) : Prop :=
  s.dhcp.state ≠ .backingOff ∧ s.dhcp.state ≠ .unused7
    ∧ (s.ctrl.attached = false → s.dhcp.state = .off)
    ∧ (s.dhcp.state = .requesting → s.dhcp.address ≠ 0#32)
    ∧ (s.dhcp.state.isBound = true → s.ident.ownIp = s.dhcp.address ∧ s.dhcp.address ≠ 0#32)

/-! ### Comparing two outcomes up to some fields -/

/-- An outcome with one function applied to its next state. -/
def mapNext (f : State → State) : Result → Result
  | .next t => .next (f t)
  | .fault r => .fault r
  | .refused r => .refused r

/-- A state with its counters blanked. -/
def State.eraseStats (s : State) : State := { s with stats := Counters.zero }

/-- A state with what a `send` answer may change blanked: the answers left, the oracle's index, `stat_tx_fail` and
`STATUS` (93_implementation_defined.md U8). -/
def State.eraseAnswers (s : State) : State :=
  { s with answers := [], sendCount := 0, stats := { s.stats with txFail := 0#32 },
           port := { s.port with status := 0#8 } }

end Sys2Proof.Machine
end

