-- ==== Sys2Proof/Certificates/Slice0/Obligations.lean ====
section
/-!
DEFINITION. The statements for the provers, file by file of the spec. `operandA` is `BUF_A[0:LEN_A]`, `operandB` is
`BUF_B[0:LEN_B]`; `withStatus c` is the state with `STATUS` at code `c` of 60_exceptions.md R322; `afterSend F` the state
after one `emit send(F)` with the environment's answer taken into account, `sendCode c` the status that answer gives.
A conclusion `exec i s = .next { s with … }` says what changes, and that nothing else does.
-/

open Sys2Proof Sys2Proof.Machine

/-! ### Encoding and stepping (30_encoding.md) -/

/-- 30_encoding.md R80, R81: every command decodes from its encoding, nothing else decodes to it, and opcode bytes taken
from the opcode map decode to the commands the map names. -/
def Obligations.EncodeDecodeAgree : Prop :=
  (∀ i : Instr, decode (encode i) = .ok i) ∧ (∀ (bs : List Byte) (i : Instr), decode bs = .ok i → bs = encode i)
    ∧ decode [0b00000001#8] = .ok .attach ∧ decode [0b00001000#8] = .ok .csrWr
    ∧ decode [0b00010001#8] = .ok .csadj ∧ decode [0b00100100#8] = .ok .arpRx
    ∧ decode [0b00110010#8] = .ok .rqFlush ∧ decode [0b01000010#8] = .ok .pmTick
    ∧ decode [0b01010010#8] = .ok .dhRel

/-- 30_encoding.md R83: a reserved opcode, as the rule lists them, sets `STATUS` to `ILLEGAL_CMD` and does nothing else,
with no event. -/
def Obligations.ReservedOpcodeOnlySetsStatus : Prop :=
  ∀ s : State, s.cmdPending = true → reservedByList s.port.cmd.toNat →
    step s = .next (({ s with cmdPending := false, events := [] } : State).withStatus 7#8)

/-- A step with a pending command runs the decoded command on the state whose command is consumed and whose event list is
empty (the command port's form is the model's, log 1). -/
def Obligations.StepRunsDecodedCommand : Prop :=
  ∀ (s : State) (i : Instr), s.cmdPending = true → decode [s.port.cmd] = .ok i →
    step s = exec i { s with cmdPending := false, events := [] }

/-- With no command pending the engine waits, or the environment acts once: each of its thirteen actions writes what it names
and nothing else; bytes past the end of a buffer do not exist (the environment's list is the model's choice, log 1; the fault is
log 5). -/
def Obligations.IdleStepTakesEnvironmentAction : Prop :=
  (∀ s : State, s.cmdPending = false → s.env = [] → step s = .next s)
    ∧ ∀ (s : State) (x : EnvAction) (rest : List EnvAction), s.cmdPending = false → s.env = x :: rest →
        match x with
        | .opIp v => step s = .next { s with env := rest, port := { s.port with opIp := v } }
        | .opMac v => step s = .next { s with env := rest, port := { s.port with opMac := v } }
        | .opAge v => step s = .next { s with env := rest, port := { s.port with opAge := v } }
        | .opCsum v => step s = .next { s with env := rest, port := { s.port with opCsum := v } }
        | .opReg v => step s = .next { s with env := rest, port := { s.port with opReg := v } }
        | .opVal v => step s = .next { s with env := rest, port := { s.port with opVal := v } }
        | .xidIn v => step s = .next { s with env := rest, port := { s.port with xidIn := v } }
        | .lenA v => step s = .next { s with env := rest, port := { s.port with lenA := v } }
        | .lenB v => step s = .next { s with env := rest, port := { s.port with lenB := v } }
        | .bufA a bs =>
          (a + bs.length ≤ s.params.bufCap →
              step s = .next { s with env := rest, bufA := s.bufA.writeBytes a bs })
            ∧ (s.params.bufCap < a + bs.length → step s = .fault .bufferAddress)
        | .bufB a bs =>
          (a + bs.length ≤ s.params.bufCap →
              step s = .next { s with env := rest, bufB := s.bufB.writeBytes a bs })
            ∧ (s.params.bufCap < a + bs.length → step s = .fault .bufferAddress)
        | .sendAnswers l => step s = .next { s with env := rest, answers := l }
        | .cmd w => step s = .next { s with env := rest, port := { s.port with cmd := w }, cmdPending := true }

/-- 60_exceptions.md R328, R333: with legal parameters (log 2) every command completes, in any state whatever, and the engine
is ready for the next one. -/
def Obligations.NoCommandStopsTheEngine : Prop :=
  ∀ s : State, s.params.legal = true →
    (∀ i : Instr, ∃ t, exec i s = .next t)
      ∧ (s.cmdPending = true → ∃ t, step s = .next t ∧ t.cmdPending = false)

/-! ### Reset and buffers (70_reset_and_hazards.md, 10_state.md) -/

/-- 70_reset_and_hazards.md R350, power-on column: every register, table, counter and buffer byte is 0, the engine is
detached, no event is listed; and the invariants hold there. -/
def Obligations.PowerOnIsZeroAndMeetsInvariants : Prop :=
  State.reset.ident = ⟨0#48, 0#32, 0#32, 0#32, 0#32⟩ ∧ State.reset.ctrl = ⟨false, false⟩
    ∧ State.reset.arp = List.replicate 64 ⟨0#32, 0#48, 0#16⟩
    ∧ State.reset.rq = List.replicate 8 ⟨false, [], 0#16, 0#32, 0#32⟩
    ∧ State.reset.pmap = List.replicate 64 ⟨0#16, 0#16, 0#16, 0#32, 0#32⟩
    ∧ State.reset.dhcp = ⟨.off, 0#32, 0#32, 0#32, 0#32, 0#16, 0#16, 0#32, 0#32, 0#32, 0#32⟩
    ∧ State.reset.stats = ⟨0#32, 0#32, 0#32, 0#32, 0#32, 0#32, 0#32, 0#32, 0#32, 0#32⟩
    ∧ State.reset.port
        = ⟨0#8, 0#8, 0#32, 0#48, 0#16, 0#16, 0#8, 0#48, 0#32, 0#48, 0#16, 0#48, 0#16, 0#16, 0#16⟩
    ∧ (∀ a, State.reset.bufA.read a = 0#8 ∧ State.reset.bufB.read a = 0#8 ∧ State.reset.bufOut.read a = 0#8)
    ∧ State.reset.events = []
    ∧ ShapeOk State.reset ∧ ArpUnique State.reset ∧ RetryPoolOk State.reset ∧ PortMapUnique State.reset
    ∧ DhcpOk State.reset

/-- 00_scope.md R11, 10_state.md R48: writing bytes to a buffer from an address on replaces exactly those bytes. -/
def Obligations.BufferWriteReplacesExactlyThoseBytes : Prop :=
  ∀ (m : Memory) (a : Nat) (bs : List Byte) (c : Nat), m.wf →
    (m.writeBytes a bs).read c = if a ≤ c ∧ c < a + bs.length then bs.getD (c - a) 0#8 else m.read c

/-! ### Checksum Engine (40_checksum.md) -/

/-- 40_checksum.md R121: `CSUM` stores the one's complement of the folded sum of the 16-bit big-endian words, attached or
detached, and writes nothing but `RES_CSUM` and `STATUS`. -/
def Obligations.CsumStoresComplementOfFoldedSum : Prop :=
  ∀ s : State, s.port.lenA.toNat ≤ s.params.bufCap →
    exec .csum s = .next { s with port := { s.port with resCsum := complementSum s.operandA, status := 0#8 } }

/-- 40_checksum.md R122, clauses (a) to (g). -/
def Obligations.ChecksumCornerCases : Prop :=
  checksum [] = 0xFFFF#16
    ∧ (∀ n, checksum (List.replicate n 0#8) = 0xFFFF#16)
    ∧ (∀ d, checksum d = 0xFFFF#16 ↔ ∀ b ∈ d, b = 0#8)
    ∧ checksum [0xFF#8, 0xFF#8] = 0#16
    ∧ checksum [0x01#8] = 0xFEFF#16 ∧ checksum [0x01#8, 0x02#8, 0x03#8] = 0xFBFD#16
    ∧ checksum [0xFF#8, 0xFF#8, 0xFF#8, 0xFF#8, 0x00#8, 0x02#8] = 0xFFFD#16
    ∧ (∀ d n, checksum (d ++ List.replicate n 0#8) = checksum d)
    ∧ (∀ (x y z : List Byte) (a b c d : Byte), x.length % 2 = 0 → y.length % 2 = 0 →
        checksum (x ++ [a, b] ++ y ++ [c, d] ++ z) = checksum (x ++ [c, d] ++ y ++ [a, b] ++ z))
    ∧ (∀ (x : List Byte) (i : Nat), i % 2 = 0 → i + 2 ≤ x.length → be16 x i = 0#16 →
        checksum (put16 x i (checksum x)) = 0#16
          ∧ (checksum x = 0#16 → checksum (put16 x i 0xFFFF#16) = 0#16))

/-- 40_checksum.md R125, R126: `CSADJ` completes with the algorithm's result, attached or detached, and writes nothing
but `RES_CSUM` and `STATUS`; the algorithm's corner cases (a) to (d), (f), (g). -/
def Obligations.CsadjStoresAdjustedChecksum : Prop :=
  (∀ s : State, s.port.lenA.toNat ≤ s.params.bufCap → s.port.lenB.toNat ≤ s.params.bufCap →
    exec .csadj s = .next { s with port := { s.port with
      resCsum := adjustChecksum s.params.csadjZeroBorrows s.port.opCsum s.operandA s.operandB, status := 0#8 } })
    ∧ (∀ zb c, adjustChecksum zb c [] [] = c)
    ∧ adjustChecksum false 0xFFFF#16 [0x00#8, 0x01#8] [] = 0x0001#16
    ∧ adjustChecksum false 0x0000#16 [] [0x00#8, 0x01#8] = 0xFFFE#16
    ∧ adjustChecksum false 0xFFFA#16 [0x00#8, 0x05#8] [0x00#8, 0x00#8] = 0xFFFF#16
    ∧ adjustChecksum true 0xFFFA#16 [0x00#8, 0x05#8] [0x00#8, 0x00#8] = 0x0000#16
    ∧ adjustChecksum false 0xFFFF#16 [0xFF#8, 0xFF#8] [] = 0xFFFF#16
    ∧ (∀ zb c (o n : List Byte), o.length % 2 = 1 → adjustChecksum zb c (o ++ [0#8]) n = adjustChecksum zb c o n)
    ∧ (∀ zb c (o n : List Byte), n.length % 2 = 1 → adjustChecksum zb c o (n ++ [0#8]) = adjustChecksum zb c o n)

/-- 40_checksum.md R127: inside its domain (an even start, and a tail or an even change of length) the incremental
checksum equals the one from scratch, but for the two zeros of one's-complement arithmetic. -/
def Obligations.AdjustAgreesWithFromScratch : Prop :=
  ∀ (zb : Bool) (b : List Byte) (i j : Nat) (n : List Byte), i ≤ j → j ≤ b.length → i % 2 = 0 →
    (j = b.length ∨ (n.length + (j - i)) % 2 = 0) →
    adjustChecksum zb (checksum b) (slice b i j) n = checksum (b.take i ++ n ++ b.drop j)
      ∨ (zb = false ∧ checksum (b.take i ++ n ++ b.drop j) = 0#16
          ∧ adjustChecksum zb (checksum b) (slice b i j) n = 0xFFFF#16)
      ∨ (zb = true ∧ checksum (b.take i ++ n ++ b.drop j) = 0xFFFF#16
          ∧ adjustChecksum zb (checksum b) (slice b i j) n = 0#16)

/-! ### Gating (30_encoding.md, 45_bridge.md, 10_state.md) -/

/-- 30_encoding.md R84, 45_bridge.md R291, 10_state.md R48: what a refused command does is set `STATUS`. Detached, every
command but `ATTACH`, `CSR.*`, `CSUM`, `CSADJ` gives `NOT_ATTACHED` (before the length check: log 4); `ATTACH` while
attached gives `ATTACHED`; a buffer operand longer than `BUF_CAP` gives `ILLEGAL_CMD`. -/
def Obligations.RefusedCommandOnlySetsStatus : Prop :=
  (∀ (s : State) (i : Instr), s.ctrl.attached = false → acceptedDetached i = false →
      exec i s = .next (s.withStatus 5#8))
    ∧ (∀ s : State, s.ctrl.attached = true → exec .attach s = .next (s.withStatus 6#8))
    ∧ (∀ (s : State) (i : Instr), readsBufA i = true → (s.ctrl.attached = true ∨ acceptedDetached i = true) →
        s.params.bufCap < s.port.lenA.toNat → exec i s = .next (s.withStatus 7#8))
    ∧ (∀ s : State, s.port.lenA.toNat ≤ s.params.bufCap → s.params.bufCap < s.port.lenB.toNat →
        exec .csadj s = .next (s.withStatus 7#8))

/-! ### ARP Cache (41_arp_cache.md) -/

/-- 41_arp_cache.md R142 (and R141): a hit answers the lowest matching entry's link address, a miss (or address 0) leaves
`RES_MAC`; the table is not written. -/
def Obligations.ArpLookupAnswersLowestMatch : Prop :=
  ∀ s : State, s.ctrl.attached = true →
    (∀ (i : Nat) (e : ArpEntry), s.port.opIp ≠ 0#32 → s.arp[i]? = some e →
        LowestIndex s.arp (fun e => e.ip = s.port.opIp) i →
        exec .arpLookup s = .next { s with port := { s.port with resMac := e.linkAddr, status := 0#8 } })
      ∧ ((s.port.opIp = 0#32 ∨ ∀ e ∈ s.arp, e.ip ≠ s.port.opIp) → exec .arpLookup s = .next (s.withStatus 1#8))

/-- 41_arp_cache.md R146 (and R147 for a table full of static entries): the four cases of an update. -/
def Obligations.ArpUpdateCases : Prop :=
  ∀ s : State, s.ctrl.attached = true →
    (s.port.opIp = 0#32 → exec .arpUpdate s = .next (s.withStatus 0#8))
      ∧ (∀ (i : Nat) (e : ArpEntry), s.port.opIp ≠ 0#32 → s.arp[i]? = some e →
          LowestIndex s.arp (fun e => e.ip = s.port.opIp) i →
          let e' : ArpEntry := ⟨e.ip, s.port.opMac, if e.age = s.params.arpStaticAge then e.age else s.port.opAge⟩
          exec .arpUpdate s = .next (({ s with arp := s.arp.set i e' } : State).withStatus 0#8))
      ∧ (∀ i : Nat, s.port.opIp ≠ 0#32 → (∀ e ∈ s.arp, e.ip ≠ s.port.opIp) →
          LowestIndex s.arp (fun e => e.ip = 0#32) i →
          exec .arpUpdate s = .next (({ s with arp := s.arp.set i ⟨s.port.opIp, s.port.opMac, s.port.opAge⟩ } :
            State).withStatus 0#8))
      ∧ (∀ i : Nat, s.port.opIp ≠ 0#32 → (∀ e ∈ s.arp, e.ip ≠ s.port.opIp ∧ e.ip ≠ 0#32) →
          LowestIndex s.arp (fun e => e.age ≠ s.params.arpStaticAge
            ∧ ∀ f ∈ s.arp, f.age ≠ s.params.arpStaticAge → f.age.toInt ≤ e.age.toInt) i →
          exec .arpUpdate s = .next (({ s with arp := s.arp.set i ⟨s.port.opIp, s.port.opMac, s.port.opAge⟩ } :
            State).withStatus 0#8))
      ∧ (s.port.opIp ≠ 0#32 →
          (∀ e ∈ s.arp, e.ip ≠ s.port.opIp ∧ e.ip ≠ 0#32 ∧ e.age = s.params.arpStaticAge) →
          exec .arpUpdate s = .next (({ s with stats := { s.stats with arpNospace := s.stats.arpNospace + 1#32 } } :
            State).withStatus 11#8))

/-- 41_arp_cache.md R150 and its consequences: one tick's effect; an entry inserted with age 0 and not refreshed survives
exactly `ARP_MAX_AGE` ticks; a static entry survives any number. -/
def Obligations.ArpAgeingFreesAfterMaxAge : Prop :=
  (∀ s : State, s.ctrl.attached = true → exec .arpAge s = .next (({ s with arp := s.arp.map (fun e =>
      if e.ip ≠ 0#32 ∧ e.age ≠ s.params.arpStaticAge then
        if (s.params.arpMaxAge : Int) < (e.age + 1#16).toInt then ⟨0#32, 0#48, 0#16⟩
        else { e with age := e.age + 1#16 }
      else e) } : State).withStatus 0#8))
    ∧ (∀ (s : State) (i : Nat) (e : ArpEntry), s.ctrl.attached = true → s.params.agesOk = true →
        s.arp[i]? = some e → e.ip ≠ 0#32 → e.age = 0#16 →
        (∀ n, n ≤ s.params.arpMaxAge → ∃ t, repeatCommand .arpAge n s = some t
            ∧ t.arp[i]? = some { e with age := BitVec.ofNat 16 n })
          ∧ ∃ t, repeatCommand .arpAge (s.params.arpMaxAge + 1) s = some t ∧ t.arp[i]? = some ArpEntry.zero)
    ∧ (∀ (s : State) (i : Nat) (e : ArpEntry) (n : Nat), s.ctrl.attached = true → s.arp[i]? = some e →
        e.ip ≠ 0#32 → e.age = s.params.arpStaticAge →
        ∃ t, repeatCommand .arpAge n s = some t ∧ t.arp[i]? = some e)

/-- 41_arp_cache.md R152: `ARP.REQ` sends exactly one broadcast request for `OP_IP`, cached or not, and touches no
table. -/
def Obligations.ArpReqSendsOneRequest : Prop :=
  ∀ s : State, s.ctrl.attached = true →
    exec .arpReq s = .next ((s.afterSend (specArpRequest s s.port.opIp)).withStatus (s.sendCode 0#8))

/-- 41_arp_cache.md R154: a malformed frame is discarded; a well-formed one always updates the cache, then a request for
our address is answered, a reply to us flushes the retry queue, anything else ends there. -/
def Obligations.ArpRxLearnsThenAnswersOrFlushes : Prop :=
  ∀ s : State, s.ctrl.attached = true → s.port.lenA.toNat ≤ s.params.bufCap →
    (¬ ArpFrameValid s.operandA →
        exec .arpRx s = .next (({ s with stats := { s.stats with rxDiscard := s.stats.rxDiscard + 1#32 } } :
          State).withStatus 4#8))
      ∧ (ArpFrameValid s.operandA →
          let f := s.operandA
          let u := (arpUpdate s (be32 f 28) (be48 f 22) 0#16).1
          (be16 f 20 = 1#16 → s.ident.ownIp ≠ 0#32 → be32 f 38 = s.ident.ownIp →
              exec .arpRx s
                = .next ((u.afterSend (specArpReply s (be48 f 22) (be32 f 28))).withStatus (u.sendCode 0#8)))
            ∧ (be16 f 20 = 2#16 → s.ident.ownIp ≠ 0#32 → be32 f 38 = s.ident.ownIp →
                exec .arpRx s = .next ((rqFlush u (be32 f 28) (be48 f 22)).1.withStatus
                  (rqFlush u (be32 f 28) (be48 f 22)).2.code))
            ∧ (¬ ((be16 f 20 = 1#16 ∨ be16 f 20 = 2#16) ∧ s.ident.ownIp ≠ 0#32 ∧ be32 f 38 = s.ident.ownIp) →
                exec .arpRx s = .next (u.withStatus 0#8)))

/-- 10_state.md R30 (a): every step keeps at most one ARP entry per non-zero IP address. -/
def Obligations.StepKeepsArpEntriesUnique : Prop :=
  ∀ s t : State, ArpUnique s → step s = .next t → ArpUnique t

/-- 10_state.md R30 (c), 41_arp_cache.md R146: a static entry keeps its slot, its address and its age through every step
but `ATTACH` and `DETACH`: it is never freed and never evicted. -/
def Obligations.StaticArpEntriesPersist : Prop :=
  ∀ (s t : State) (i : Nat) (e : ArpEntry), step s = .next t →
    (s.cmdPending = true → s.port.cmd ≠ 0x01#8 ∧ s.port.cmd ≠ 0x02#8) →
    s.arp[i]? = some e → e.ip ≠ 0#32 → e.age = s.params.arpStaticAge →
    ∃ m, t.arp[i]? = some ⟨e.ip, m, e.age⟩

/-! ### Retry Queue (42_retry_queue.md) -/

/-- 42_retry_queue.md R172 (with R171): refusals in order, else the lowest free slot holds the packet with its next hop and
a full life, and one ARP request for the next hop leaves. The packet is the whole operand (log 9). -/
def Obligations.RqEnqQueuesAndAsks : Prop :=
  ∀ s : State, s.ctrl.attached = true → s.port.lenA.toNat ≤ s.params.bufCap →
    ((s.operandA.length < 20 ∨ s.params.ipMaxLen < s.operandA.length) →
        exec .rqEnq s = .next (({ s with stats := { s.stats with txDiscard := s.stats.txDiscard + 1#32 } } :
          State).withStatus 4#8))
      ∧ (20 ≤ s.operandA.length → s.operandA.length ≤ s.params.ipMaxLen → specNextHop s s.port.opIp = 0#32 →
          exec .rqEnq s = .next (({ s with stats := { s.stats with noRoute := s.stats.noRoute + 1#32 } } :
            State).withStatus 9#8))
      ∧ (20 ≤ s.operandA.length → s.operandA.length ≤ s.params.ipMaxLen → specNextHop s s.port.opIp ≠ 0#32 →
          (∀ e ∈ s.rq, e.used = true) →
          exec .rqEnq s = .next (({ s with stats := { s.stats with rqFull := s.stats.rqFull + 1#32 } } :
            State).withStatus 2#8))
      ∧ (∀ i : Nat, 20 ≤ s.operandA.length → s.operandA.length ≤ s.params.ipMaxLen →
          specNextHop s s.port.opIp ≠ 0#32 → LowestIndex s.rq (fun e => e.used = false) i →
          exec .rqEnq s = .next ((({ s with rq := s.rq.set i ⟨true, s.operandA, BitVec.ofNat 16 s.operandA.length,
              specNextHop s s.port.opIp, s.params.rqLife⟩ } : State).afterSend
                (specArpRequest s (specNextHop s s.port.opIp))).withStatus (s.sendCode 8#8)))

/-- 42_retry_queue.md R176 and its consequences: one tick's effect; a packet whose slot holds life `n` is still there,
with life `n - k`, after `k < n` ticks, and is dropped by the `n`-th. -/
def Obligations.RqTickDropsAfterLife : Prop :=
  (∀ s : State, s.ctrl.attached = true → (∀ e ∈ s.rq, e.used = true → e.life ≠ 0#32) →
    exec .rqTick s = .next (({ s with
      rq := s.rq.map (fun e => if e.used = true then
        (if e.life = 1#32 then ⟨false, [], 0#16, 0#32, 0#32⟩ else { e with life := e.life - 1#32 }) else e),
      stats := { s.stats with rqExpired :=
        s.stats.rqExpired + BitVec.ofNat 32 (s.rq.countP (fun e => e.used && e.life == 1#32)) } } :
      State).withStatus 0#8))
    ∧ (∀ (s : State) (i : Nat) (e : RqSlot), s.ctrl.attached = true → s.rq[i]? = some e → e.used = true →
        e.life ≠ 0#32 →
        (∀ k, k < e.life.toNat → ∃ t, repeatCommand .rqTick k s = some t
            ∧ t.rq[i]? = some { e with life := e.life - BitVec.ofNat 32 k })
          ∧ ∃ t, repeatCommand .rqTick e.life.toNat s = some t ∧ t.rq[i]? = some ⟨false, [], 0#16, 0#32, 0#32⟩)

/-- 42_retry_queue.md R178: every used slot waiting for `OP_IP` is sent to `OP_MAC` in ascending slot order and freed,
sent or not; the failed sends are counted and give `TX_FAIL`; nothing else changes. -/
def Obligations.RqFlushSendsAndFreesMatchingSlots : Prop :=
  ∀ s : State, s.ctrl.attached = true →
    let hits := s.rq.filter (fun e => e.used && e.destIp == s.port.opIp)
    let errs := (List.range hits.length).countP (fun j => s.answerAt j == .err)
    exec .rqFlush s = .next (({ s with
      rq := s.rq.map (fun e => if e.used && e.destIp == s.port.opIp then ⟨false, [], 0#16, 0#32, 0#32⟩ else e),
      events := s.events
        ++ hits.map (fun e => Event.send (specIpFrame s s.port.opMac (e.ipPacket.take e.pktLen.toNat))),
      answers := s.answers.drop hits.length,
      sendCount := s.sendCount + hits.length,
      stats := { s.stats with txFail := s.stats.txFail + BitVec.ofNat 32 errs } } :
      State).withStatus (if errs = 0 then 0#8 else 3#8))

/-- 10_state.md R31, R33: with legal parameters (log 2) every step keeps the retry pool: a used slot has a life in
`1 .. RQ_LIFE`, a packet of storable length and a next hop; a free slot is zeroed. -/
def Obligations.StepKeepsRetryPool : Prop :=
  ∀ s t : State, s.params.legal = true → RetryPoolOk s → step s = .next t →
    RetryPoolOk t ∧ t.params = s.params

/-! ### Translator (43_translator.md) -/

/-- 43_translator.md R190: with the translator inactive both directions answer their packet, cut to its total length,
unchanged, and touch no state but the result. -/
def Obligations.InactiveTranslatorPassesPacketsThrough : Prop :=
  ∀ (s : State) (h : IpHeader), s.ctrl.attached = true → s.port.lenA.toNat ≤ s.params.bufCap →
    (s.ident.externalHostIp = 0#32 ∨ s.ident.externalHostIp = s.ident.ownIp) →
    ipDecode s.operandA = some h →
    exec .xlOut s = .next (s.withOut (s.operandA.take h.tl))
      ∧ exec .xlIn s = .next (s.withOut (s.operandA.take h.tl))

/-- 43_translator.md R192 to R197: outbound, a packet that does not decode is dropped and counted, one from another source
passes unchanged; one from `external_host_ip` gets `own_ip` as its source with the IP checksum adjusted; a UDP checksum is
adjusted unless it is 0, and a fragment, a truncated segment or another protocol has nothing else changed. What decodes is
said by `DhRxDiscardsInvalidDatagrams` (IP) and `XlOutTracksTcpFlow` (TCP). -/
def Obligations.XlOutRewritesSource : Prop :=
  ∀ s : State, s.ctrl.attached = true → s.port.lenA.toNat ≤ s.params.bufCap →
    (ipDecode s.operandA = none →
        exec .xlOut s = .next (({ s with stats := { s.stats with txDiscard := s.stats.txDiscard + 1#32 } } :
          State).withStatus 4#8))
      ∧ (∀ h : IpHeader, ipDecode s.operandA = some h → s.ident.externalHostIp ≠ 0#32 →
          s.ident.externalHostIp ≠ s.ident.ownIp →
          let p := s.operandA.take h.tl
          let zb := s.params.csadjZeroBorrows
          let old := bytes32 s.ident.externalHostIp
          let new := bytes32 s.ident.ownIp
          let hdr := put32 (put16 (p.take h.hl) 10 (adjustChecksum zb (be16 p 10) old new)) 12 s.ident.ownIp
          let seg := p.drop h.hl
          (h.src ≠ s.ident.externalHostIp → exec .xlOut s = .next (s.withOut p))
            ∧ (h.src = s.ident.externalHostIp →
                (h.fragOff ≠ 0#13 ∨ (h.proto ≠ 6#8 ∧ h.proto ≠ 17#8) ∨ (h.proto = 17#8 ∧ seg.length < 8)
                  ∨ (h.proto = 6#8 ∧ tcpDecode seg = none)) →
                exec .xlOut s = .next (s.withOut (hdr ++ seg)))
            ∧ (h.src = s.ident.externalHostIp → h.fragOff = 0#13 → h.proto = 17#8 → 8 ≤ seg.length →
                exec .xlOut s = .next (s.withOut (hdr ++
                  if be16 seg 6 = 0#16 then seg else put16 seg 6 (adjustChecksum zb (be16 seg 6) old new)))))

/-- 43_translator.md R210, R211: inbound, the mirror: a packet that does not decode is dropped and counted, one not for
`own_ip` passes unchanged, one for `own_ip` gets `external_host_ip` as its destination with the checksums adjusted. -/
def Obligations.XlInRewritesDestination : Prop :=
  ∀ s : State, s.ctrl.attached = true → s.port.lenA.toNat ≤ s.params.bufCap →
    (ipDecode s.operandA = none →
        exec .xlIn s = .next (({ s with stats := { s.stats with rxDiscard := s.stats.rxDiscard + 1#32 } } :
          State).withStatus 4#8))
      ∧ (∀ h : IpHeader, ipDecode s.operandA = some h → s.ident.externalHostIp ≠ 0#32 →
          s.ident.externalHostIp ≠ s.ident.ownIp →
          let p := s.operandA.take h.tl
          let zb := s.params.csadjZeroBorrows
          let old := bytes32 s.ident.ownIp
          let new := bytes32 s.ident.externalHostIp
          let hdr := put32 (put16 (p.take h.hl) 10 (adjustChecksum zb (be16 p 10) old new)) 16 s.ident.externalHostIp
          let seg := p.drop h.hl
          (h.dst ≠ s.ident.ownIp → exec .xlIn s = .next (s.withOut p))
            ∧ (h.dst = s.ident.ownIp →
                (h.fragOff ≠ 0#13 ∨ (h.proto ≠ 6#8 ∧ h.proto ≠ 17#8) ∨ (h.proto = 17#8 ∧ seg.length < 8)
                  ∨ (h.proto = 6#8 ∧ tcpDecode seg = none)) →
                exec .xlIn s = .next (s.withOut (hdr ++ seg)))
            ∧ (h.dst = s.ident.ownIp → h.fragOff = 0#13 → h.proto = 17#8 → 8 ≤ seg.length →
                exec .xlIn s = .next (s.withOut (hdr ++
                  if be16 seg 6 = 0#16 then seg else put16 seg 6 (adjustChecksum zb (be16 seg 6) old new)))))

/-- 43_translator.md R195, R198, R199: an outbound TCP segment that is no `PORT` rewrite has its checksum adjusted for the
address; a SYN clears the flow's entry; a later segment above `last_seq` is shifted by `seq_adjust`, FIN or RST arm the close
timer (70_reset_and_hazards.md R365 differs on some segments: log 11). 30_encoding.md R94: a segment decodes to `t` exactly if
it passes the three tests and `t` holds its fields. -/
def Obligations.XlOutTracksTcpFlow : Prop :=
  (∀ (l : List Byte) (t : TcpHeader), tcpDecode l = some t ↔ TcpHeaderOf l t)
    ∧ ∀ (s : State) (h : IpHeader) (t : TcpHeader), s.ctrl.attached = true → s.port.lenA.toNat ≤ s.params.bufCap →
    ipDecode s.operandA = some h → s.ident.externalHostIp ≠ 0#32 → s.ident.externalHostIp ≠ s.ident.ownIp →
    h.src = s.ident.externalHostIp → h.fragOff = 0#13 → h.proto = 6#8 →
    let p := s.operandA.take h.tl
    let zb := s.params.csadjZeroBorrows
    let old := bytes32 s.ident.externalHostIp
    let new := bytes32 s.ident.ownIp
    let hdr := put32 (put16 (p.take h.hl) 10 (adjustChecksum zb (be16 p 10) old new)) 12 s.ident.ownIp
    let seg := p.drop h.hl
    let seg1 := put16 seg 16 (adjustChecksum zb (be16 seg 16) old new)
    let mine := fun e : PmapEntry => e.srcPort = t.sport ∧ e.dstPort = t.dport ∧ ¬ (e.srcPort = 0#16 ∧ e.dstPort = 0#16)
    tcpDecode seg = some t →
    (t.dport ≠ s.params.ftpCtrlPort ∨ h.mf = true ∨ parsePort (seg.drop t.hlen) = none) →
    ((∀ e ∈ s.pmap, ¬ mine e) → exec .xlOut s = .next (s.withOut (hdr ++ seg1)))
      ∧ (∀ i : Nat, LowestIndex s.pmap mine i → t.flags.getLsbD 1 = true →
          exec .xlOut s = .next (({ s with pmap := s.pmap.set i ⟨0#16, 0#16, 0#16, 0#32, 0#32⟩ } :
            State).withOut (hdr ++ seg1)))
      ∧ (∀ (i : Nat) (e : PmapEntry), LowestIndex s.pmap mine i → s.pmap[i]? = some e → t.flags.getLsbD 1 = false →
          let closing := t.flags.getLsbD 0 = true ∨ t.flags.getLsbD 2 = true
          let e' : PmapEntry := { e with closeTimer := if closing then s.params.pmapCloseTicks else e.closeTimer }
          exec .xlOut s = .next (({ s with pmap := s.pmap.set i e' } : State).withOut (hdr ++
              if e.lastSeq.toNat < t.seq.toNat then
                put32 (put16 seg1 16 (adjustChecksum zb (be16 seg1 16) (bytes32 t.seq) (bytes32 (t.seq + e.seqAdjust)))) 4
                  (t.seq + e.seqAdjust)
              else seg1)))

/-- 43_translator.md R210, R212: the inbound mirror, under the reversed port pair: an ACK above `last_seq` has
`seq_adjust` subtracted from its acknowledgement number. -/
def Obligations.XlInTracksTcpFlow : Prop :=
  ∀ (s : State) (h : IpHeader) (t : TcpHeader), s.ctrl.attached = true → s.port.lenA.toNat ≤ s.params.bufCap →
    ipDecode s.operandA = some h → s.ident.externalHostIp ≠ 0#32 → s.ident.externalHostIp ≠ s.ident.ownIp →
    h.dst = s.ident.ownIp → h.fragOff = 0#13 → h.proto = 6#8 →
    let p := s.operandA.take h.tl
    let zb := s.params.csadjZeroBorrows
    let old := bytes32 s.ident.ownIp
    let new := bytes32 s.ident.externalHostIp
    let hdr := put32 (put16 (p.take h.hl) 10 (adjustChecksum zb (be16 p 10) old new)) 16 s.ident.externalHostIp
    let seg := p.drop h.hl
    let seg1 := put16 seg 16 (adjustChecksum zb (be16 seg 16) old new)
    let mine := fun e : PmapEntry => e.srcPort = t.dport ∧ e.dstPort = t.sport ∧ ¬ (e.srcPort = 0#16 ∧ e.dstPort = 0#16)
    tcpDecode seg = some t →
    ((∀ e ∈ s.pmap, ¬ mine e) → exec .xlIn s = .next (s.withOut (hdr ++ seg1)))
      ∧ (∀ i : Nat, LowestIndex s.pmap mine i → t.flags.getLsbD 1 = true →
          exec .xlIn s = .next (({ s with pmap := s.pmap.set i ⟨0#16, 0#16, 0#16, 0#32, 0#32⟩ } :
            State).withOut (hdr ++ seg1)))
      ∧ (∀ (i : Nat) (e : PmapEntry), LowestIndex s.pmap mine i → s.pmap[i]? = some e → t.flags.getLsbD 1 = false →
          let closing := t.flags.getLsbD 0 = true ∨ t.flags.getLsbD 2 = true
          let e' : PmapEntry := { e with closeTimer := if closing then s.params.pmapCloseTicks else e.closeTimer }
          exec .xlIn s = .next (({ s with pmap := s.pmap.set i e' } : State).withOut (hdr ++
              if t.flags.getLsbD 4 = true ∧ e.lastSeq.toNat < t.ack.toNat then
                put32 (put16 seg1 16 (adjustChecksum zb (be16 seg1 16) (bytes32 t.ack) (bytes32 (t.ack - e.seqAdjust)))) 8
                  (t.ack - e.seqAdjust)
              else seg1)))

/-- 43_translator.md R201, R202, 30_encoding.md R101: the `PORT` grammar accepts exactly `"PORT "` and four numbers of 1 to 3
digits, at most 255, each with its comma, and answers what follows; the rewritten command holds the four octets of the address,
the most significant first, in decimal without leading zeros, and the same rest, is in the grammar itself, and differs in length
by at most 8. -/
def Obligations.PortCommandGrammar : Prop :=
  (∀ y rest : List Byte, parsePort y = some rest ↔
      ∃ d1 d2 d3 d4 : List Byte,
        y = [0x50#8, 0x4F#8, 0x52#8, 0x54#8, 0x20#8] ++ d1 ++ [0x2C#8] ++ d2 ++ [0x2C#8] ++ d3 ++ [0x2C#8] ++ d4
              ++ [0x2C#8] ++ rest
          ∧ OctetDigits d1 ∧ OctetDigits d2 ∧ OctetDigits d3 ∧ OctetDigits d4)
    ∧ ∀ (ip : IpAddr) (rest : List Byte),
        (∃ d1 d2 d3 d4 : List Byte,
          portCommand ip rest = [0x50#8, 0x4F#8, 0x52#8, 0x54#8, 0x20#8] ++ d1 ++ [0x2C#8] ++ d2 ++ [0x2C#8] ++ d3
              ++ [0x2C#8] ++ d4 ++ [0x2C#8] ++ rest
            ∧ IsDecimalOf d1 (ip.toNat / 0x1000000) ∧ IsDecimalOf d2 (ip.toNat / 0x10000 % 256)
            ∧ IsDecimalOf d3 (ip.toNat / 0x100 % 256) ∧ IsDecimalOf d4 (ip.toNat % 256))
          ∧ parsePort (portCommand ip rest) = some rest
          ∧ ∀ y : List Byte, parsePort y = some rest →
              (portCommand ip rest).length ≤ y.length + 8 ∧ y.length ≤ (portCommand ip rest).length + 8

/-- 43_translator.md R203, R204, R205 (with R199): what a `PORT` rewrite answers and does to the flow table, on top of the
tracking of `XlOutTracksTcpFlow`; `g` is the segment as that left it. Same length: the payload is replaced, the TCP checksum
adjusted for the whole payload, no table written. Different length: an oversize packet is dropped; else the lengths and both checksums are recomputed from scratch, a tracked flow's delta
and sequence number are recorded, an untracked flow (or one whose entry a SYN just cleared) takes the lowest free entry, and
with none free the packet is dropped; the drops leave `BUF_OUT`. The parameters are legal (log 2). -/
def Obligations.PortRewriteRecordsDelta : Prop :=
  ∀ (s : State) (h : IpHeader) (t : TcpHeader) (rest : List Byte), s.ctrl.attached = true →
    s.port.lenA.toNat ≤ s.params.bufCap → s.params.legal = true → ipDecode s.operandA = some h →
    s.ident.externalHostIp ≠ 0#32 → s.ident.externalHostIp ≠ s.ident.ownIp → h.src = s.ident.externalHostIp →
    h.fragOff = 0#13 → h.mf = false → h.proto = 6#8 →
    let p := s.operandA.take h.tl
    let zb := s.params.csadjZeroBorrows
    let old := bytes32 s.ident.externalHostIp
    let new := bytes32 s.ident.ownIp
    let hdr := put32 (put16 (p.take h.hl) 10 (adjustChecksum zb (be16 p 10) old new)) 12 s.ident.ownIp
    let seg := p.drop h.hl
    let seg1 := put16 seg 16 (adjustChecksum zb (be16 seg 16) old new)
    tcpDecode seg = some t → t.dport = s.params.ftpCtrlPort → parsePort (seg.drop t.hlen) = some rest →
    let y := seg.drop t.hlen
    let y2 := portCommand s.ident.ownIp rest
    let newLen := h.hl + t.hlen + y2.length
    let delta : BitVec 32 := BitVec.ofNat 32 y2.length - BitVec.ofNat 32 y.length
    let fits := y2.length ≠ y.length ∧ newLen ≤ s.params.ipMaxLen
    let oversize := y2.length ≠ y.length ∧ s.params.ipMaxLen < newLen
    let replaced := fun g : List Byte =>
      hdr ++ put16 (g.take t.hlen) 16 (adjustChecksum zb (be16 g 16) y y2) ++ y2
    let rebuilt := fun g : List Byte =>
      let ih := put16 (put16 hdr 2 (BitVec.ofNat 16 newLen)) 10 0#16
      let tcp := put16 (g.take t.hlen) 16 0#16 ++ y2
      put16 ih 10 (checksum ih) ++ put16 tcp 16 (checksum (pseudo s.ident.ownIp h.dst 6#8 tcp.length ++ tcp))
    let closing := t.flags.getLsbD 0 = true ∨ t.flags.getLsbD 2 = true
    let mine := fun e : PmapEntry => e.srcPort = t.sport ∧ e.dstPort = t.dport ∧ ¬ (e.srcPort = 0#16 ∧ e.dstPort = 0#16)
    let dropped := fun l : List PmapEntry =>
      ({ s with pmap := l, stats := { s.stats with txDiscard := s.stats.txDiscard + 1#32 } } : State).withStatus 4#8
    let full := fun l : List PmapEntry =>
      ({ s with pmap := l, stats := { s.stats with pmapFull := s.stats.pmapFull + 1#32 } } : State).withStatus 12#8
    (∀ l : List PmapEntry,
        ((∀ e ∈ s.pmap, ¬ mine e) ∧ l = s.pmap
          ∨ ∃ k, LowestIndex s.pmap mine k ∧ t.flags.getLsbD 1 = true
              ∧ l = s.pmap.set k ⟨0#16, 0#16, 0#16, 0#32, 0#32⟩) →
        (y2.length = y.length →
            exec .xlOut s = .next (({ s with pmap := l } : State).withOut (replaced seg1)))
          ∧ (oversize → exec .xlOut s = .next (dropped l))
          ∧ (∀ i : Nat, fits → LowestIndex l (fun e => e.srcPort = 0#16 ∧ e.dstPort = 0#16) i →
              let e' : PmapEntry := ⟨t.sport, t.dport, 0#16, delta, t.seq⟩
              exec .xlOut s = .next (({ s with pmap := l.set i e' } : State).withOut (rebuilt seg1)))
          ∧ (fits → (∀ e ∈ l, ¬ (e.srcPort = 0#16 ∧ e.dstPort = 0#16)) → exec .xlOut s = .next (full l)))
      ∧ (∀ (i : Nat) (e : PmapEntry), LowestIndex s.pmap mine i → s.pmap[i]? = some e → t.flags.getLsbD 1 = false →
          let g := if e.lastSeq.toNat < t.seq.toNat then
              put32 (put16 seg1 16 (adjustChecksum zb (be16 seg1 16) (bytes32 t.seq) (bytes32 (t.seq + e.seqAdjust)))) 4
                (t.seq + e.seqAdjust)
            else seg1
          let timer := if closing then s.params.pmapCloseTicks else e.closeTimer
          let kept : PmapEntry := { e with closeTimer := timer }
          let moved : PmapEntry := { e with closeTimer := timer, seqAdjust := e.seqAdjust + delta, lastSeq := t.seq }
          (y2.length = y.length →
              exec .xlOut s = .next (({ s with pmap := s.pmap.set i kept } : State).withOut (replaced g)))
            ∧ (oversize → exec .xlOut s = .next (dropped (s.pmap.set i kept)))
            ∧ (fits → exec .xlOut s = .next (({ s with pmap := s.pmap.set i moved } : State).withOut (rebuilt g))))

/-- 43_translator.md R204, R206 (with R199): after a `PORT` rewrite to a different length the packet in `BUF_OUT` is internally
consistent: total length, IP header checksum and TCP checksum all verify from scratch, its source is `own_ip`, its payload
is the command with the octets of `own_ip`; every other byte of the IP header is the host's, and every other byte of the TCP
header too, but for the sequence number of a tracked flow, shifted when above `last_seq`. The parameters are legal (log 2). -/
def Obligations.PortRewriteIsConsistent : Prop :=
  ∀ (s u : State) (h : IpHeader) (t : TcpHeader) (rest : List Byte), s.ctrl.attached = true → s.bufOut.wf →
    s.port.lenA.toNat ≤ s.params.bufCap → s.params.legal = true → ipDecode s.operandA = some h →
    s.ident.externalHostIp ≠ 0#32 → s.ident.externalHostIp ≠ s.ident.ownIp → h.src = s.ident.externalHostIp →
    h.fragOff = 0#13 → h.mf = false → h.proto = 6#8 →
    tcpDecode ((s.operandA.take h.tl).drop h.hl) = some t → t.dport = s.params.ftpCtrlPort →
    parsePort (((s.operandA.take h.tl).drop h.hl).drop t.hlen) = some rest →
    (portCommand s.ident.ownIp rest).length ≠ h.tl - h.hl - t.hlen →
    exec .xlOut s = .next u → u.port.status = 0#8 →
    let q := u.bufOut.readBytes 0 u.port.lenOut.toNat
    let mine := fun e : PmapEntry => e.srcPort = t.sport ∧ e.dstPort = t.dport ∧ ¬ (e.srcPort = 0#16 ∧ e.dstPort = 0#16)
    q.length = h.hl + t.hlen + (portCommand s.ident.ownIp rest).length
      ∧ (be16 q 2).toNat = q.length ∧ be32 q 12 = s.ident.ownIp ∧ be32 q 16 = h.dst
      ∧ checksum (q.take h.hl) = 0#16
      ∧ checksum (pseudo s.ident.ownIp h.dst 6#8 (q.length - h.hl) ++ q.drop h.hl) = 0#16
      ∧ q.drop (h.hl + t.hlen) = portCommand s.ident.ownIp rest
      ∧ (∀ j, j < h.hl → ¬ (2 ≤ j ∧ j ≤ 3) → ¬ (10 ≤ j ∧ j ≤ 15) → byteAt q j = byteAt s.operandA j)
      ∧ (∀ j, j < t.hlen → ¬ (4 ≤ j ∧ j ≤ 7) → ¬ (16 ≤ j ∧ j ≤ 17) →
          byteAt q (h.hl + j) = byteAt s.operandA (h.hl + j))
      ∧ ((∀ e ∈ s.pmap, ¬ mine e) → be32 q (h.hl + 4) = t.seq)
      ∧ (∀ (i : Nat) (e : PmapEntry), LowestIndex s.pmap mine i → s.pmap[i]? = some e →
          be32 q (h.hl + 4)
            = if t.flags.getLsbD 1 = false ∧ e.lastSeq.toNat < t.seq.toNat then t.seq + e.seqAdjust else t.seq)

/-- 43_translator.md R216: `PM.TICK` counts the armed timers of the entries in use down and clears an entry whose timer
reaches 0. -/
def Obligations.PmTickCountsDownAndClears : Prop :=
  ∀ s : State, s.ctrl.attached = true →
    exec .pmTick s = .next (({ s with pmap := s.pmap.map (fun e =>
      if ¬ (e.srcPort = 0#16 ∧ e.dstPort = 0#16) ∧ e.closeTimer ≠ 0#16 then
        (if e.closeTimer = 1#16 then ⟨0#16, 0#16, 0#16, 0#32, 0#32⟩ else { e with closeTimer := e.closeTimer - 1#16 })
      else e) } : State).withStatus 0#8)

/-- 10_state.md R37: every step keeps at most one port-map entry per port pair. -/
def Obligations.StepKeepsPortMapUnique : Prop :=
  ∀ s t : State, PortMapUnique s → step s = .next t → PortMapUnique t

/-! ### DHCP Client (44_dhcp.md) -/

/-- 44_dhcp.md R248, R250, R263: the tick in `Off` (and in the two unused encodings) does nothing unless the interface wants
an address; then it samples `XID_IN`, sends one DISCOVER, enters `Selecting` and loads the backoff. -/
def Obligations.DhTickInOffStartsDiscovery : Prop :=
  ∀ s : State, s.ctrl.attached = true →
    (s.dhcp.state = .off ∨ s.dhcp.state = .backingOff ∨ s.dhcp.state = .unused7) →
    (s.ctrl.dhcpWant = false → exec .dhTick s = .next (s.withStatus 0#8))
      ∧ (s.ctrl.dhcpWant = true →
          let d := { s.dhcp with transactionId := s.port.xidIn, state := .selecting }
          let u : State := { s with dhcp := d }
          let f := dhFrame u 0xFFFFFFFFFFFF#48 0#32 0xFFFFFFFF#32
            (dhMessage u 0#32 [53#8, 1#8, 1#8, 55#8, 2#8, 1#8, 3#8])
          exec .dhTick s = .next (({ s.afterSend f with dhcp := { d with
            retryBackoff := s.params.dhcpBackoffInit, retryWait := s.params.dhcpBackoffInit } } :
            State).withStatus (s.sendCode 0#8)))

/-- 44_dhcp.md R252, R256: in `Selecting` and `Requesting` a tick counts the wait down; at 0 the message is sent again and the
backoff doubles up to its ceiling. -/
def Obligations.DhTickRetransmitsWithBackoff : Prop :=
  ∀ s : State, s.ctrl.attached = true → (s.dhcp.state = .selecting ∨ s.dhcp.state = .requesting) →
    (1 < s.dhcp.retryWait.toNat →
        exec .dhTick s = .next (({ s with dhcp := { s.dhcp with retryWait := s.dhcp.retryWait - 1#16 } } :
          State).withStatus 0#8))
      ∧ (s.dhcp.retryWait.toNat ≤ 1 →
          let opts := if s.dhcp.state = .selecting then [53#8, 1#8, 1#8, 55#8, 2#8, 1#8, 3#8]
            else [53#8, 1#8, 3#8, 50#8, 4#8] ++ bytes32 s.dhcp.address ++ [54#8, 4#8] ++ bytes32 s.dhcp.dhcpServer
              ++ [55#8, 2#8, 1#8, 3#8]
          let f := dhFrame s 0xFFFFFFFFFFFF#48 0#32 0xFFFFFFFF#32 (dhMessage s 0#32 opts)
          let b := BitVec.ofNat 16 (min (2 * s.dhcp.retryBackoff.toNat) s.params.dhcpBackoffMax.toNat)
          exec .dhTick s = .next (({ s.afterSend f with dhcp := { s.dhcp with retryBackoff := b, retryWait := b } } :
            State).withStatus (s.sendCode 0#8)))

/-- 44_dhcp.md R248, R249, R257 to R260: in a bound state a tick counts the three lease counters down; expiry comes first and
clears the address, then renewal from `Bound` (unicast, not sent if the server's link address is unknown), then rebinding from
`Renewing` (broadcast). -/
def Obligations.DhTickInBoundStates : Prop :=
  ∀ s : State, s.ctrl.attached = true → s.dhcp.state.isBound = true →
    let d := { s.dhcp with leaseSeconds := down s.dhcp.leaseSeconds, renewAt := down s.dhcp.renewAt,
                           rebindAt := down s.dhcp.rebindAt }
    let u : State := { s with dhcp := d }
    let body := dhMessage s s.ident.ownIp [53#8, 1#8, 3#8, 55#8, 2#8, 1#8, 3#8]
    (s.dhcp.leaseSeconds.toNat ≤ 1 → exec .dhTick s = .next (u.dhcpCleared.withStatus 0#8))
      ∧ (1 < s.dhcp.leaseSeconds.toNat → s.dhcp.state = .bound → s.dhcp.renewAt.toNat ≤ 1 →
          (arpLookup s s.dhcp.dhcpServer = none →
              exec .dhTick s = .next (({ s with dhcp := { d with state := .renewing } } : State).withStatus 0#8))
            ∧ (∀ m, arpLookup s s.dhcp.dhcpServer = some m →
                exec .dhTick s = .next (({ s.afterSend (dhFrame s m s.ident.ownIp s.dhcp.dhcpServer body) with
                  dhcp := { d with state := .renewing } } : State).withStatus (s.sendCode 0#8))))
      ∧ (1 < s.dhcp.leaseSeconds.toNat → s.dhcp.state = .renewing → s.dhcp.rebindAt.toNat ≤ 1 →
          exec .dhTick s = .next (({ s.afterSend (dhFrame s 0xFFFFFFFFFFFF#48 s.ident.ownIp 0xFFFFFFFF#32 body) with
            dhcp := { d with state := .rebinding } } : State).withStatus (s.sendCode 0#8)))
      ∧ (1 < s.dhcp.leaseSeconds.toNat → (s.dhcp.state = .bound → 1 < s.dhcp.renewAt.toNat) →
          (s.dhcp.state = .renewing → 1 < s.dhcp.rebindAt.toNat) → exec .dhTick s = .next (u.withStatus 0#8))

/-- 44_dhcp.md R240, R244, 30_encoding.md R100: a datagram is accepted with the fields `r` exactly if it passes every common
test and `r` holds its fields; one that no `r` fits, or that fails a test of its transition, is discarded: counted, no other
state change, no event. The option area item by item: a pad is skipped, the end marker and the end of the area end the scan, an
item that lies beyond the area or a known code with a wrong length is an error (at every occurrence of the code: the model's
reading, log 6), any other item is taken; of a repeated code the first counts. 30_encoding.md R92, R93: a packet decodes to `h`
exactly if it passes the tests of `ip_decode` and `h` holds its fields, most significant byte first; `frag_off` is bits 12 to 0
of the word at offset 6, `MF` bit 13. -/
def Obligations.DhRxDiscardsInvalidDatagrams : Prop :=
  (∀ (s : State) (f : List Byte) (r : DhReply), dhValidate s f = some r ↔ DhcpReplyValid s f r)
    ∧ (∀ (b : List Byte) (h : IpHeader), ipDecode b = some h ↔ Ipv4HeaderOf b h)
    ∧ (∀ h : IpHeader, h.fragOff.toNat = h.flagsFrag.toNat % 8192 ∧ (h.mf = true ↔ h.flagsFrag.toNat / 8192 % 2 = 1))
    ∧ (∀ (b : List Byte) (i : Nat),
        (be16 b i).toNat = 256 * (byteAt b i).toNat + (byteAt b (i + 1)).toNat
          ∧ (be32 b i).toNat = 65536 * (be16 b i).toNat + (be16 b (i + 2)).toNat
          ∧ (be48 b i).toNat = 4294967296 * (be16 b i).toNat + (be32 b (i + 2)).toNat)
    ∧ (∀ s : State, s.ctrl.attached = true → s.port.lenA.toNat ≤ s.params.bufCap →
        let dropped : State := { s with stats := { s.stats with dhcpDiscard := s.stats.dhcpDiscard + 1#32 } }
        ((∀ r, ¬ DhcpReplyValid s s.operandA r) → exec .dhRx s = .next (dropped.withStatus 4#8))
          ∧ (∀ r, DhcpReplyValid s s.operandA r →
              ((s.dhcp.state = .selecting ∧ r.msgType = 2#8 ∧ r.yiaddr = 0#32)
                ∨ ((s.dhcp.state = .requesting ∨ s.dhcp.state = .renewing ∨ s.dhcp.state = .rebinding)
                    ∧ r.msgType = 5#8 ∧ (r.yiaddr ≠ s.dhcp.address ∨ optWord r.opts 51#8 = none))) →
              exec .dhRx s = .next (dropped.withStatus 4#8)))
    ∧ (let parse := fun area : List Byte => optsParse area.length area
       (∀ (n : Nat) (area : List Byte), area.length ≤ n → optsParse n area = parse area)
         ∧ parse [] = some [] ∧ (∀ rest, parse (0#8 :: rest) = parse rest) ∧ (∀ rest, parse (255#8 :: rest) = some [])
         ∧ (∀ code, code ≠ 0#8 → code ≠ 255#8 → parse [code] = none)
         ∧ (∀ (code n : Byte) (body : List Byte), code ≠ 0#8 → code ≠ 255#8 →
             ((body.length < n.toNat ∨ ¬ OptionLengthLegal code n.toNat) → parse (code :: n :: body) = none)
               ∧ (n.toNat ≤ body.length → OptionLengthLegal code n.toNat →
                   parse (code :: n :: body)
                     = (parse (body.drop n.toNat)).map (fun l => (code, body.take n.toNat) :: l))))
    ∧ (∀ (opts : List (Byte × List Byte)) (code : Byte),
        ((∀ o ∈ opts, o.1 ≠ code) → optWord opts code = none ∧ optByte opts code = none)
          ∧ ∀ (i : Nat) (data : List Byte), LowestIndex opts (fun o => o.1 = code) i → opts[i]? = some (code, data) →
              optWord opts code = some (be32 data 0) ∧ optByte opts code = some (byteAt data 0))

/-- 44_dhcp.md R245: a datagram that passes every common test but whose (state, message type) pair has no transition changes
nothing, counts nothing and gives `OK`. -/
def Obligations.DhRxIgnoresUnlistedPairs : Prop :=
  ∀ (s : State) (r : DhReply), s.ctrl.attached = true → s.port.lenA.toNat ≤ s.params.bufCap →
    dhValidate s s.operandA = some r →
    ¬ (s.dhcp.state = .selecting ∧ r.msgType = 2#8) →
    ¬ (s.dhcp.state = .requesting ∧ (r.msgType = 5#8 ∨ r.msgType = 6#8)) →
    ¬ ((s.dhcp.state = .renewing ∨ s.dhcp.state = .rebinding) ∧ r.msgType = 5#8) →
    exec .dhRx s = .next (s.withStatus 0#8)

/-- 44_dhcp.md R251: an OFFER in `Selecting` is adopted tentatively, a REQUEST naming its server is broadcast, the backoff is
reset; `own_ip` is not written. -/
def Obligations.DhRxOfferSendsRequest : Prop :=
  ∀ (s : State) (r : DhReply), s.ctrl.attached = true → s.port.lenA.toNat ≤ s.params.bufCap →
    dhValidate s s.operandA = some r → s.dhcp.state = .selecting → r.msgType = 2#8 → r.yiaddr ≠ 0#32 →
    let server := (optWord r.opts 54#8).getD r.ipSrc
    let f := dhFrame s 0xFFFFFFFFFFFF#48 0#32 0xFFFFFFFF#32 (dhMessage s 0#32
      ([53#8, 1#8, 3#8, 50#8, 4#8] ++ bytes32 r.yiaddr ++ [54#8, 4#8] ++ bytes32 server ++ [55#8, 2#8, 1#8, 3#8]))
    exec .dhRx s = .next (({ s.afterSend f with dhcp := { s.dhcp with
      address := r.yiaddr, dhcpServer := server, state := .requesting,
      retryBackoff := s.params.dhcpBackoffInit, retryWait := s.params.dhcpBackoffInit } } :
      State).withStatus (s.sendCode 0#8))

/-- 44_dhcp.md R253, R255: a matching ACK in `Requesting` commits address, mask, gateway and timers, announces the binding with
a gratuitous ARP reply and records the server as a static ARP entry. -/
def Obligations.DhRxAckCommitsBinding : Prop :=
  ∀ (s : State) (r : DhReply) (lease : BitVec 32), s.ctrl.attached = true → s.port.lenA.toNat ≤ s.params.bufCap →
    dhValidate s s.operandA = some r → s.dhcp.state = .requesting → r.msgType = 5#8 → r.yiaddr = s.dhcp.address →
    optWord r.opts 51#8 = some lease →
    let u : State := { s with
      ident := { s.ident with
        ownIp := s.dhcp.address, ownMask := (optWord r.opts 1#8).getD s.ident.ownMask,
        gatewayIp := (optWord r.opts 3#8).getD s.ident.gatewayIp },
      dhcp := { s.dhcp with
        mask := (optWord r.opts 1#8).getD s.dhcp.mask, gateway := (optWord r.opts 3#8).getD s.dhcp.gateway,
        leaseSeconds := lease, renewAt := (optWord r.opts 58#8).getD (lease >>> 1),
        rebindAt := (optWord r.opts 59#8).getD (lease - (lease >>> 3)), retryWait := 0#16, state := .bound } }
    exec .dhRx s = .next ((arpUpdate (u.afterSend (specGratuitousArp u)) s.dhcp.dhcpServer r.frameSrc
      s.params.arpStaticAge).1.withStatus (s.sendCode 0#8))

/-- 44_dhcp.md R254 (with R258): a NAK in `Requesting` clears the address fields and timers and returns to `Off`; nothing is
sent and nothing else changes. -/
def Obligations.DhRxNakReturnsToOff : Prop :=
  ∀ (s : State) (r : DhReply), s.ctrl.attached = true → s.port.lenA.toNat ≤ s.params.bufCap →
    dhValidate s s.operandA = some r → s.dhcp.state = .requesting → r.msgType = 6#8 →
    exec .dhRx s = .next (s.dhcpCleared.withStatus 0#8)

/-- 44_dhcp.md R261: a matching ACK in `Renewing` or `Rebinding` refreshes the three timers and returns to `Bound`; nothing
else is written and nothing is sent. -/
def Obligations.DhRxAckRefreshesTimers : Prop :=
  ∀ (s : State) (r : DhReply) (lease : BitVec 32), s.ctrl.attached = true → s.port.lenA.toNat ≤ s.params.bufCap →
    dhValidate s s.operandA = some r → (s.dhcp.state = .renewing ∨ s.dhcp.state = .rebinding) → r.msgType = 5#8 →
    r.yiaddr = s.dhcp.address → optWord r.opts 51#8 = some lease →
    exec .dhRx s = .next (({ s with dhcp := { s.dhcp with
      leaseSeconds := lease, renewAt := (optWord r.opts 58#8).getD (lease >>> 1),
      rebindAt := (optWord r.opts 59#8).getD (lease - (lease >>> 3)), state := .bound } } : State).withStatus 0#8)

/-- 44_dhcp.md R262, R263: `DH.REL` clears `dhcp_want` and returns to `Off`: from a bound state after a RELEASE (sent if the
server's link address is known) and the clear, from an exchange in progress after the clear alone, otherwise with no clear. -/
def Obligations.DhRelReleasesAndStops : Prop :=
  ∀ s : State, s.ctrl.attached = true →
    ((s.dhcp.state = .off ∨ s.dhcp.state = .backingOff ∨ s.dhcp.state = .unused7) →
        exec .dhRel s = .next (({ s with
          dhcp := { s.dhcp with state := .off }, ctrl := { s.ctrl with dhcpWant := false } } : State).withStatus 0#8))
      ∧ ((s.dhcp.state = .selecting ∨ s.dhcp.state = .requesting) →
          exec .dhRel s = .next (({ s.dhcpCleared with ctrl := { s.ctrl with dhcpWant := false } } :
            State).withStatus 0#8))
      ∧ (s.dhcp.state.isBound = true → arpLookup s s.dhcp.dhcpServer = none →
          exec .dhRel s = .next (({ s.dhcpCleared with ctrl := { s.ctrl with dhcpWant := false } } :
            State).withStatus 0#8))
      ∧ (∀ m, s.dhcp.state.isBound = true → arpLookup s s.dhcp.dhcpServer = some m →
          let opts := [53#8, 1#8, 7#8, 54#8, 4#8] ++ bytes32 s.dhcp.dhcpServer
          let u := (s.afterSend (dhFrame s m s.ident.ownIp s.dhcp.dhcpServer (dhMessage s s.ident.ownIp opts))).dhcpCleared
          exec .dhRel s = .next (({ u with ctrl := { s.ctrl with dhcpWant := false } } :
            State).withStatus (s.sendCode 0#8)))

/-- 44_dhcp.md R231 to R233, 30_encoding.md R98: with legal parameters (log 2) every DHCP frame the client builds decodes and
verifies: Ethernet header and padding, the IP header's fields, total length, IP and UDP checksums from scratch (the UDP one
never 0), ports; and the message is byte for byte R231's layout, with R233's options from offset 240 on and the end marker after
them. -/
def Obligations.DhcpFramesVerify : Prop :=
  ∀ (s : State) (dmac : MacAddr) (src dst ciaddr : IpAddr) (k : DhMessage), s.params.legal = true →
    let f := dhFrame s dmac src dst (dhMessage s ciaddr (dhOptions s.dhcp k))
    let p := f.drop 14
    let opts : List Byte := match k with
      | .discover => [53#8, 1#8, 1#8, 55#8, 2#8, 1#8, 3#8]
      | .requestSelecting => [53#8, 1#8, 3#8, 50#8, 4#8] ++ bytes32 s.dhcp.address ++ [54#8, 4#8]
          ++ bytes32 s.dhcp.dhcpServer ++ [55#8, 2#8, 1#8, 3#8]
      | .requestRenewing => [53#8, 1#8, 3#8, 55#8, 2#8, 1#8, 3#8]
      | .requestRebinding => [53#8, 1#8, 3#8, 55#8, 2#8, 1#8, 3#8]
      | .release => [53#8, 1#8, 7#8, 54#8, 4#8] ++ bytes32 s.dhcp.dhcpServer
    be48 f 0 = dmac ∧ be48 f 6 = s.ident.ownMac ∧ be16 f 12 = 0x0800#16
      ∧ ∃ h, ipDecode p = some h ∧ h.hl = 20 ∧ h.tos = 0#8 ∧ h.ident = 0#16 ∧ h.flagsFrag = 0#16
          ∧ h.ttl = s.params.ipTtlDefault ∧ h.proto = 17#8 ∧ h.src = src ∧ h.dst = dst
          ∧ checksum (p.take 20) = 0#16
          ∧ p.drop h.tl = List.replicate (s.params.ethMinPacket - (14 + h.tl)) 0#8
          ∧ (let u := (p.take h.tl).drop 20
             let m := u.drop 8
             be16 u 0 = s.params.dhcpClientPort ∧ be16 u 2 = s.params.dhcpServerPort
               ∧ (be16 u 4).toNat = u.length ∧ be16 u 6 ≠ 0#16
               ∧ checksum (pseudo src dst 17#8 u.length ++ u) = 0#16
               ∧ m.length = max s.params.dhcpMsgLen (241 + opts.length)
               ∧ byteAt m 0 = 1#8 ∧ byteAt m 1 = 1#8 ∧ byteAt m 2 = 6#8 ∧ byteAt m 3 = 0#8
               ∧ be32 m 4 = s.dhcp.transactionId ∧ be16 m 8 = 0#16 ∧ be16 m 10 = 0#16 ∧ be32 m 12 = ciaddr
               ∧ be32 m 16 = 0#32 ∧ be32 m 20 = 0#32 ∧ be32 m 24 = 0#32 ∧ be48 m 28 = s.ident.ownMac
               ∧ (∀ j, 34 ≤ j → j < 236 → byteAt m j = 0#8)
               ∧ slice m 236 240 = [0x63#8, 0x82#8, 0x53#8, 0x63#8]
               ∧ slice m 240 (240 + opts.length) = opts ∧ byteAt m (240 + opts.length) = 255#8
               ∧ ∀ j, 241 + opts.length ≤ j → byteAt m j = 0#8)

/-- 44_dhcp.md R266: (a) from `Off` with the interface wanting an address, the tick and then a well-formed OFFER leave
`Requesting` and emit exactly one frame, whose option 54 holds the server identifier of the OFFER, whatever the environment
writes to the port and answers in between; (b) a NAK in `Requesting` returns to `Off` with the address fields 0. -/
def Obligations.OfferLeadsToRequestingNakToOff : Prop :=
  (∀ s : State, s.ctrl.attached = true → s.dhcp.state = .off → s.ctrl.dhcpWant = true →
      ∃ s1, exec .dhTick s = .next s1 ∧ s1.dhcp.state = .selecting
        ∧ ∀ (p : Port) (m : Memory) (l : List SendAnswer) (r : DhReply),
            let s2 : State := { s1 with port := p, bufA := m, answers := l, events := [] }
            p.lenA.toNat ≤ s.params.bufCap → dhValidate s2 s2.operandA = some r → r.msgType = 2#8 →
            r.yiaddr ≠ 0#32 →
            ∃ t f o, exec .dhRx s2 = .next t ∧ t.dhcp.state = .requesting ∧ t.events = [.send f]
              ∧ optsParse f.length (f.drop 282) = some o
              ∧ optWord o 54#8 = some ((optWord r.opts 54#8).getD r.ipSrc))
    ∧ (∀ (s : State) (r : DhReply), s.ctrl.attached = true → s.port.lenA.toNat ≤ s.params.bufCap →
        dhValidate s s.operandA = some r → s.dhcp.state = .requesting → r.msgType = 6#8 →
        ∃ t, exec .dhRx s = .next t ∧ t.dhcp.state = .off ∧ t.dhcp.address = 0#32 ∧ t.dhcp.mask = 0#32
          ∧ t.dhcp.gateway = 0#32 ∧ t.ident.ownIp = 0#32 ∧ t.ident.ownMask = 0#32 ∧ t.ident.gatewayIp = 0#32)

/-- 10_state.md R40: in `Off` the DHCP state machine transmits only on the tick that enters `Selecting`, and then one frame.
Stated for every command that runs the machine in `Off` without handling other traffic. -/
def Obligations.OffNeverTransmits : Prop :=
  ∀ (s t : State) (i : Instr), s.dhcp.state = .off →
    (i = .dhTick ∨ i = .dhRx ∨ i = .dhRel ∨ i = .tick ∨ i = .detach) → exec i s = .next t →
    t.events = s.events
      ∨ ((i = .dhTick ∨ i = .tick) ∧ t.dhcp.state = .selecting ∧ ∃ f, t.events = s.events ++ [.send f])

/-- 10_state.md R39, R41: every step keeps the DHCP registers: no unused state value, `Off` while detached, a non-zero
requested address, and `own_ip == dh.address != 0` in a bound state. -/
def Obligations.StepKeepsDhcpRegisters : Prop :=
  ∀ s t : State, DhcpOk s → step s = .next t → DhcpOk t

/-! ### Protocol Bridge (45_bridge.md) -/

/-- 45_bridge.md R292: `ATTACH` while detached zeroes the tables, the DHCP registers and the counters, sets `attached`, emits
`set_filter(own_mac, [])`, and keeps everything else; while attached it gives `ATTACHED` and does nothing. -/
def Obligations.AttachRebuildsFromZero : Prop :=
  ∀ s : State,
    (s.ctrl.attached = true → exec .attach s = .next (s.withStatus 6#8))
      ∧ (s.ctrl.attached = false →
          exec .attach s = .next (({ s with
            arp := List.replicate s.params.arpCapacity ⟨0#32, 0#48, 0#16⟩,
            rq := List.replicate s.params.rqPool ⟨false, [], 0#16, 0#32, 0#32⟩,
            pmap := List.replicate s.params.pmapCapacity ⟨0#16, 0#16, 0#16, 0#32, 0#32⟩,
            dhcp := ⟨.off, 0#32, 0#32, 0#32, 0#32, 0#16, 0#16, 0#32, 0#32, 0#32, 0#32⟩,
            stats := ⟨0#32, 0#32, 0#32, 0#32, 0#32, 0#32, 0#32, 0#32, 0#32, 0#32⟩,
            ctrl := { s.ctrl with attached := true },
            events := s.events ++ [.setFilter s.ident.ownMac []] } : State).withStatus 0#8))

/-- 45_bridge.md R293: `DETACH` is the release, with its status, followed by the clearing of the tables and of every `dh.*`
register; the counters stay. While detached it gives `NOT_ATTACHED` and does nothing. -/
def Obligations.DetachReleasesThenClears : Prop :=
  ∀ s : State,
    (s.ctrl.attached = false → exec .detach s = .next (s.withStatus 5#8))
      ∧ (s.ctrl.attached = true →
          ∃ u, exec .dhRel s = .next u
            ∧ exec .detach s = .next { u with
                arp := List.replicate s.params.arpCapacity ⟨0#32, 0#48, 0#16⟩,
                rq := List.replicate s.params.rqPool ⟨false, [], 0#16, 0#32, 0#32⟩,
                pmap := List.replicate s.params.pmapCapacity ⟨0#16, 0#16, 0#16, 0#32, 0#32⟩,
                dhcp := ⟨.off, 0#32, 0#32, 0#32, 0#32, 0#16, 0#16, 0#32, 0#32, 0#32, 0#32⟩,
                ctrl := ⟨false, false⟩ })

/-- 45_bridge.md R294: `TICK` is `ARP.AGE`, `DH.TICK`, `RQ.TICK`, `PM.TICK` in that order, with the status of the DHCP
step. -/
def Obligations.TickIsTheFourTicksInOrder : Prop :=
  ∀ s : State, s.ctrl.attached = true →
    ∃ a b c d, exec .arpAge s = .next a ∧ exec .dhTick a = .next b ∧ exec .rqTick b = .next c
      ∧ exec .pmTick c = .next d ∧ exec .tick s = .next (d.withStatus b.port.status)

/-- 45_bridge.md R295 to R297: the classification of a received frame. Too short, too long, unknown, undecodable or foreign:
discarded. ARP frames are handled as `ARP.RX`, DHCP datagrams for us as `DH.RX`, packets for `own_ip` or the broadcast
address go through the inbound translation, cut to their total length, and are delivered. -/
def Obligations.RxClassifiesFrames : Prop :=
  ∀ s : State, s.ctrl.attached = true → s.port.lenA.toNat ≤ s.params.bufCap →
    let f := s.operandA
    let p := f.drop 14
    let sized := 14 ≤ f.length ∧ f.length ≤ s.params.ethMaxPacket
    let dropped : State := { s with stats := { s.stats with rxDiscard := s.stats.rxDiscard + 1#32 } }
    let dhcp := fun h : IpHeader => (be48 f 0 = 0xFFFFFFFFFFFF#48 ∨ be48 f 0 = s.ident.ownMac) ∧ h.proto = 17#8
      ∧ h.fragOff = 0#13 ∧ h.mf = false ∧ 8 ≤ ((p.take h.tl).drop h.hl).length
      ∧ be16 ((p.take h.tl).drop h.hl) 0 = s.params.dhcpServerPort
      ∧ be16 ((p.take h.tl).drop h.hl) 2 = s.params.dhcpClientPort
    let ours := fun h : IpHeader => (s.ident.ownIp ≠ 0#32 ∧ h.dst = s.ident.ownIp) ∨ h.dst = 0xFFFFFFFF#32
    (¬ sized → exec .rx s = .next (dropped.withStatus 4#8))
      ∧ (sized → be16 f 12 = 0x0806#16 → exec .rx s = exec .arpRx s)
      ∧ (sized → be16 f 12 ≠ 0x0806#16 → (be16 f 12 ≠ 0x0800#16 ∨ ipDecode p = none) →
          exec .rx s = .next (dropped.withStatus 4#8))
      ∧ (∀ h, sized → be16 f 12 = 0x0800#16 → ipDecode p = some h → dhcp h → exec .rx s = exec .dhRx s)
      ∧ (∀ h, sized → be16 f 12 = 0x0800#16 → ipDecode p = some h → ¬ dhcp h → ours h →
          ∃ u st q, xlIn s (p.take h.tl) = (u, st, some q) ∧ q.length = h.tl
            ∧ exec .rx s = .next (({ u with events := u.events ++ [.hostDeliver q] } : State).withStatus 0#8))
      ∧ (∀ h, sized → be16 f 12 = 0x0800#16 → ipDecode p = some h → ¬ dhcp h → ¬ ours h →
          exec .rx s = .next (dropped.withStatus 4#8))

/-- 45_bridge.md R298, R299, R301: the outcomes of `TX` in the order of the rule; `v` is the state with `rfnm_count` already
incremented, `u` and `q` what the outbound translation makes of it. Whatever the routing answers, `u`'s port map stays (the model's
reading, log 10). -/
def Obligations.TxOutcomesInOrder : Prop :=
  ∀ s : State, s.ctrl.attached = true → s.port.lenA.toNat ≤ s.params.bufCap →
    let v : State := { s with stats := { s.stats with rfnm := s.stats.rfnm + 1#32 } }
    let dropped : State := { v with stats := { v.stats with txDiscard := v.stats.txDiscard + 1#32 } }
    (ipDecode s.operandA = none → exec .tx s = .next (dropped.withStatus 4#8))
      ∧ (∀ h, ipDecode s.operandA = some h → s.params.ipMaxLen < h.tl →
          exec .tx s = .next (dropped.withStatus 4#8))
      ∧ (∀ h, ipDecode s.operandA = some h → h.tl ≤ s.params.ipMaxLen → s.ident.ownIp = 0#32 →
          exec .tx s = .next (dropped.withStatus 10#8))
      ∧ (∀ h u st, ipDecode s.operandA = some h → h.tl ≤ s.params.ipMaxLen → s.ident.ownIp ≠ 0#32 →
          xlOut v s.operandA = (u, st, none) → exec .tx s = .next (u.withStatus st.code))
      ∧ (∀ h u st q, ipDecode s.operandA = some h → h.tl ≤ s.params.ipMaxLen → s.ident.ownIp ≠ 0#32 →
          xlOut v s.operandA = (u, st, some q) →
          (specNextHop s (be32 q 16) = 0#32 →
              exec .tx s = .next (({ u with stats := { u.stats with noRoute := u.stats.noRoute + 1#32 } } :
                State).withStatus 9#8))
            ∧ (∀ m, specNextHop s (be32 q 16) ≠ 0#32 → arpLookup s (specNextHop s (be32 q 16)) = some m →
                exec .tx s = .next ((u.afterSend (specIpFrame s m q)).withStatus (u.sendCode 0#8)))
            ∧ (specNextHop s (be32 q 16) ≠ 0#32 → arpLookup s (specNextHop s (be32 q 16)) = none →
                exec .tx s = .next ((rqEnqueue u (be32 q 16) q).1.withStatus (rqEnqueue u (be32 q 16) q).2.code)))

/-- 45_bridge.md R300: `rfnm_count` is incremented exactly once by every `TX` executed while attached, whatever the outcome;
no other command but `ATTACH` and `CSR.WR` touches it. (A `TX` refused for its buffer length is not executed, 10_state.md
R48; log 4.) -/
def Obligations.RfnmCountsEveryTx : Prop :=
  (∀ s : State, s.ctrl.attached = true → s.port.lenA.toNat ≤ s.params.bufCap →
      ∃ t, exec .tx s = .next t ∧ t.stats.rfnm = s.stats.rfnm + 1#32)
    ∧ (∀ (s t : State) (i : Instr), i ≠ .tx → i ≠ .attach → i ≠ .csrWr → exec i s = .next t →
        t.stats.rfnm = s.stats.rfnm)

/-- 45_bridge.md R305: the write table, for every register number, detached and attached. -/
def Obligations.CsrWrTable : Prop :=
  ∀ s : State,
    let n := s.port.opReg
    let v := s.port.opVal
    (s.ctrl.attached = true → (n = 0x00#8 ∨ n = 0x01#8 ∨ n = 0x02#8) → exec .csrWr s = .next (s.withStatus 6#8))
      ∧ (s.ctrl.attached = false → n = 0x00#8 →
          exec .csrWr s = .next (({ s with ident := { s.ident with ownMac := v } } : State).withStatus 0#8))
      ∧ (s.ctrl.attached = false → n = 0x01#8 →
          exec .csrWr s = .next (({ s with ident := { s.ident with ownIp := v.extractLsb' 0 32 } } : State).withStatus 0#8))
      ∧ (s.ctrl.attached = false → n = 0x02#8 →
          exec .csrWr s = .next (({ s with ident := { s.ident with ownMask := v.extractLsb' 0 32 } } :
            State).withStatus 0#8))
      ∧ (n = 0x03#8 → exec .csrWr s = .next (({ s with ident := { s.ident with gatewayIp := v.extractLsb' 0 32 } } :
            State).withStatus 0#8))
      ∧ (n = 0x04#8 → exec .csrWr s = .next (({ s with ident := { s.ident with externalHostIp := v.extractLsb' 0 32 } } :
            State).withStatus 0#8))
      ∧ (n = 0x05#8 → exec .csrWr s = .next (({ s with ctrl := { s.ctrl with dhcpWant := v.getLsbD 1 } } :
            State).withStatus 0#8))
      ∧ (n = 0x29#8 → exec .csrWr s = .next (({ s with stats := { s.stats with rfnm := 0#32 } } : State).withStatus 0#8))
      ∧ (5 < n.toNat → n ≠ 0x29#8 → exec .csrWr s = .next (s.withStatus 7#8))

/-- 45_bridge.md R306: `CSR.RD` answers the zero-extended value of every register of the list and refuses every other
number, leaving `RES_VAL`. -/
def Obligations.CsrRdTable : Prop :=
  ∀ s : State,
    (∀ p ∈ specCsrValues s, s.port.opReg = p.1 →
        exec .csrRd s = .next { s with port := { s.port with resVal := p.2, status := 0#8 } })
      ∧ ((∀ p ∈ specCsrValues s, s.port.opReg ≠ p.1) → exec .csrRd s = .next (s.withStatus 7#8))

/-! ### The whole engine -/

/-- The frame of every command: operand registers, input buffers, parameters and the port's bookkeeping are never written
(10_state.md R46); a result register, the identity, `CTRL`, each table, each counter (10_state.md R44), the DHCP registers
and the event list are written only by the commands whose rules write them; events are only appended. -/
def Obligations.CommandsChangeOnlyWhatTheyName : Prop :=
  ∀ (s t : State) (i : Instr), exec i s = .next t →
    (t.params = s.params ∧ t.bufA = s.bufA ∧ t.bufB = s.bufB ∧ t.cmdPending = s.cmdPending ∧ t.env = s.env)
      ∧ t.port = { s.port with status := t.port.status, resMac := t.port.resMac, resCsum := t.port.resCsum,
                               resVal := t.port.resVal, lenOut := t.port.lenOut }
      ∧ (i ≠ .arpLookup → t.port.resMac = s.port.resMac)
      ∧ (i ≠ .csum → i ≠ .csadj → t.port.resCsum = s.port.resCsum)
      ∧ (i ≠ .csrRd → t.port.resVal = s.port.resVal)
      ∧ (i ≠ .xlOut → i ≠ .xlIn → t.port.lenOut = s.port.lenOut ∧ t.bufOut = s.bufOut)
      ∧ (i ≠ .csrWr → t.ident.ownMac = s.ident.ownMac ∧ t.ident.externalHostIp = s.ident.externalHostIp)
      ∧ (i ∉ [.csrWr, .detach, .tick, .rx, .dhTick, .dhRx, .dhRel] → t.ident = s.ident)
      ∧ (i ∉ [.attach, .detach] → t.ctrl.attached = s.ctrl.attached)
      ∧ (i ∉ [.detach, .csrWr, .dhRel] → t.ctrl.dhcpWant = s.ctrl.dhcpWant)
      ∧ (i ∉ [.attach, .detach, .tick, .rx, .arpUpdate, .arpAge, .arpRx, .dhRx] → t.arp = s.arp)
      ∧ (i ∉ [.attach, .detach, .tick, .rx, .tx, .arpRx, .rqEnq, .rqTick, .rqFlush] → t.rq = s.rq)
      ∧ (i ∉ [.attach, .detach, .tick, .rx, .tx, .xlOut, .xlIn, .pmTick] → t.pmap = s.pmap)
      ∧ (i ∉ [.attach, .detach, .tick, .rx, .dhTick, .dhRx, .dhRel] → t.dhcp = s.dhcp)
      ∧ (i ∉ [.attach, .detach, .tick, .rx, .tx, .arpReq, .arpRx, .rqEnq, .rqFlush, .dhTick, .dhRx, .dhRel] →
          t.events = s.events ∧ t.answers = s.answers ∧ t.sendCount = s.sendCount)
      ∧ (i ∉ [.attach, .rqEnq, .tx] → t.stats.rqFull = s.stats.rqFull)
      ∧ (i ∉ [.attach, .rqTick, .tick] → t.stats.rqExpired = s.stats.rqExpired)
      ∧ (i ∉ [.attach, .detach, .tick, .rx, .tx, .arpReq, .arpRx, .rqEnq, .rqFlush, .dhTick, .dhRx, .dhRel] →
          t.stats.txFail = s.stats.txFail)
      ∧ (i ∉ [.attach, .rx, .arpRx, .xlIn] → t.stats.rxDiscard = s.stats.rxDiscard)
      ∧ (i ∉ [.attach, .rx, .dhRx] → t.stats.dhcpDiscard = s.stats.dhcpDiscard)
      ∧ (i ∉ [.attach, .tx, .xlOut] → t.stats.pmapFull = s.stats.pmapFull)
      ∧ (i ∉ [.attach, .tx, .rqEnq] → t.stats.noRoute = s.stats.noRoute)
      ∧ (i ∉ [.attach, .rx, .arpUpdate, .arpRx, .dhRx] → t.stats.arpNospace = s.stats.arpNospace)
      ∧ (i ∉ [.attach, .tx, .rqEnq, .xlOut] → t.stats.txDiscard = s.stats.txDiscard)
      ∧ (i ∉ [.attach, .tx, .csrWr] → t.stats.rfnm = s.stats.rfnm)
      ∧ ∃ l, t.events = s.events ++ l

/-- 30_encoding.md R82, R86 to R88, 45_bridge.md R303 (g): with legal parameters (log 2) and a well-formed retry pool every
frame sent has a length in `ETH_MIN_PACKET .. ETH_MAX_PACKET` and comes from a command that may send; `set_filter` comes from
`ATTACH` alone, with `own_mac` and no extra address; `host_deliver` from `RX` alone, with an IP packet as long as its total
length, for `external_host_ip`, `own_ip` or `IP_BCAST`. -/
def Obligations.EmittedEventsAreWellFormed : Prop :=
  ∀ (s t : State) (i : Instr), s.params.legal = true → RetryPoolOk s → exec i s = .next t →
    ∃ l, t.events = s.events ++ l
      ∧ (∀ f, Event.send f ∈ l → s.params.ethMinPacket ≤ f.length ∧ f.length ≤ s.params.ethMaxPacket
          ∧ i ∈ [.detach, .tick, .rx, .tx, .arpReq, .arpRx, .rqEnq, .rqFlush, .dhTick, .dhRx, .dhRel])
      ∧ (∀ m x, Event.setFilter m x ∈ l → i = .attach ∧ m = s.ident.ownMac ∧ x = [])
      ∧ (∀ p, Event.hostDeliver p ∈ l → i = .rx ∧ 20 ≤ p.length ∧ (be16 p 2).toNat = p.length
          ∧ (be32 p 16 = s.ident.externalHostIp ∨ be32 p 16 = s.ident.ownIp ∨ be32 p 16 = 0xFFFFFFFF#32))

/-- 10_state.md R23, R42: `STATUS` is read by no command, and no command but `CSR.RD` reads a counter: runs that differ only
there agree on everything else. -/
def Obligations.StatusAndCountersAreNeverRead : Prop :=
  (∀ (s : State) (i : Instr) (c : BitVec 8), exec i (s.withStatus c) = exec i s)
    ∧ (∀ (s : State) (i : Instr) (c : Counters), i ≠ .csrRd →
        mapNext State.eraseStats (exec i { s with stats := c }) = mapNext State.eraseStats (exec i s))

/-- 60_exceptions.md R326, 93_implementation_defined.md U8: the answers to a command's sends change nothing but
`stat_tx_fail` and `STATUS` (and the record of answers given). -/
def Obligations.SendAnswersChangeOnlyFailCountAndStatus : Prop :=
  ∀ (s : State) (i : Instr) (l : List SendAnswer) (n : Nat),
    mapNext State.eraseAnswers (exec i { s with answers := l, sendCount := n })
      = mapNext State.eraseAnswers (exec i s)

/-- 10_state.md R27, R31, R34, R48: with legal parameters (log 2) every step keeps the tables at their fixed sizes and the three
buffers canonical and inside `BUF_CAP`. -/
def Obligations.StepKeepsShape : Prop :=
  ∀ s t : State, s.params.legal = true → ShapeOk s → step s = .next t → ShapeOk t
end

