-- ==== Sys2Proof/Laws/State.lean ====
section
/-!
SUPPORT. One lemma per field per state update, so that no proof unfolds a record update.
-/

namespace Sys2Proof.Machine

/-! ### `State.raise` -/

@[simp] theorem State.raise_params (s : State) (st : Status) : (s.raise st).params = s.params := rfl
@[simp] theorem State.raise_ident (s : State) (st : Status) : (s.raise st).ident = s.ident := rfl
@[simp] theorem State.raise_ctrl (s : State) (st : Status) : (s.raise st).ctrl = s.ctrl := rfl
@[simp] theorem State.raise_arp (s : State) (st : Status) : (s.raise st).arp = s.arp := rfl
@[simp] theorem State.raise_rq (s : State) (st : Status) : (s.raise st).rq = s.rq := rfl
@[simp] theorem State.raise_pmap (s : State) (st : Status) : (s.raise st).pmap = s.pmap := rfl
@[simp] theorem State.raise_dhcp (s : State) (st : Status) : (s.raise st).dhcp = s.dhcp := rfl
@[simp] theorem State.raise_stats (s : State) (st : Status) : (s.raise st).stats = s.stats := rfl
@[simp] theorem State.raise_port (s : State) (st : Status) :
    (s.raise st).port = { s.port with status := st.code } := rfl
@[simp] theorem State.raise_bufA (s : State) (st : Status) : (s.raise st).bufA = s.bufA := rfl
@[simp] theorem State.raise_bufB (s : State) (st : Status) : (s.raise st).bufB = s.bufB := rfl
@[simp] theorem State.raise_bufOut (s : State) (st : Status) : (s.raise st).bufOut = s.bufOut := rfl
@[simp] theorem State.raise_events (s : State) (st : Status) : (s.raise st).events = s.events := rfl
@[simp] theorem State.raise_cmdPending (s : State) (st : Status) : (s.raise st).cmdPending = s.cmdPending := rfl
@[simp] theorem State.raise_answers (s : State) (st : Status) : (s.raise st).answers = s.answers := rfl
@[simp] theorem State.raise_sendCount (s : State) (st : Status) : (s.raise st).sendCount = s.sendCount := rfl
@[simp] theorem State.raise_env (s : State) (st : Status) : (s.raise st).env = s.env := rfl

/-! ### `State.count` -/

@[simp] theorem State.count_params (s : State) (c : Counter) : (s.count c).params = s.params := rfl
@[simp] theorem State.count_ident (s : State) (c : Counter) : (s.count c).ident = s.ident := rfl
@[simp] theorem State.count_ctrl (s : State) (c : Counter) : (s.count c).ctrl = s.ctrl := rfl
@[simp] theorem State.count_arp (s : State) (c : Counter) : (s.count c).arp = s.arp := rfl
@[simp] theorem State.count_rq (s : State) (c : Counter) : (s.count c).rq = s.rq := rfl
@[simp] theorem State.count_pmap (s : State) (c : Counter) : (s.count c).pmap = s.pmap := rfl
@[simp] theorem State.count_dhcp (s : State) (c : Counter) : (s.count c).dhcp = s.dhcp := rfl
@[simp] theorem State.count_stats (s : State) (c : Counter) : (s.count c).stats = s.stats.bump c := rfl
@[simp] theorem State.count_port (s : State) (c : Counter) : (s.count c).port = s.port := rfl
@[simp] theorem State.count_bufA (s : State) (c : Counter) : (s.count c).bufA = s.bufA := rfl
@[simp] theorem State.count_bufB (s : State) (c : Counter) : (s.count c).bufB = s.bufB := rfl
@[simp] theorem State.count_bufOut (s : State) (c : Counter) : (s.count c).bufOut = s.bufOut := rfl
@[simp] theorem State.count_events (s : State) (c : Counter) : (s.count c).events = s.events := rfl
@[simp] theorem State.count_cmdPending (s : State) (c : Counter) : (s.count c).cmdPending = s.cmdPending := rfl
@[simp] theorem State.count_answers (s : State) (c : Counter) : (s.count c).answers = s.answers := rfl
@[simp] theorem State.count_sendCount (s : State) (c : Counter) : (s.count c).sendCount = s.sendCount := rfl
@[simp] theorem State.count_env (s : State) (c : Counter) : (s.count c).env = s.env := rfl

/-! ### `State.emit` -/

@[simp] theorem State.emit_params (s : State) (e : Event) : (s.emit e).params = s.params := rfl
@[simp] theorem State.emit_ident (s : State) (e : Event) : (s.emit e).ident = s.ident := rfl
@[simp] theorem State.emit_ctrl (s : State) (e : Event) : (s.emit e).ctrl = s.ctrl := rfl
@[simp] theorem State.emit_arp (s : State) (e : Event) : (s.emit e).arp = s.arp := rfl
@[simp] theorem State.emit_rq (s : State) (e : Event) : (s.emit e).rq = s.rq := rfl
@[simp] theorem State.emit_pmap (s : State) (e : Event) : (s.emit e).pmap = s.pmap := rfl
@[simp] theorem State.emit_dhcp (s : State) (e : Event) : (s.emit e).dhcp = s.dhcp := rfl
@[simp] theorem State.emit_stats (s : State) (e : Event) : (s.emit e).stats = s.stats := rfl
@[simp] theorem State.emit_port (s : State) (e : Event) : (s.emit e).port = s.port := rfl
@[simp] theorem State.emit_bufA (s : State) (e : Event) : (s.emit e).bufA = s.bufA := rfl
@[simp] theorem State.emit_bufB (s : State) (e : Event) : (s.emit e).bufB = s.bufB := rfl
@[simp] theorem State.emit_bufOut (s : State) (e : Event) : (s.emit e).bufOut = s.bufOut := rfl
@[simp] theorem State.emit_events (s : State) (e : Event) : (s.emit e).events = s.events ++ [e] := rfl
@[simp] theorem State.emit_cmdPending (s : State) (e : Event) : (s.emit e).cmdPending = s.cmdPending := rfl
@[simp] theorem State.emit_answers (s : State) (e : Event) : (s.emit e).answers = s.answers := rfl
@[simp] theorem State.emit_sendCount (s : State) (e : Event) : (s.emit e).sendCount = s.sendCount := rfl
@[simp] theorem State.emit_env (s : State) (e : Event) : (s.emit e).env = s.env := rfl

/-! ### `State.emitSend` -/

@[simp] theorem State.emitSend_params (s : State) (f : List Byte) : (s.emitSend f).params = s.params := rfl
@[simp] theorem State.emitSend_ident (s : State) (f : List Byte) : (s.emitSend f).ident = s.ident := rfl
@[simp] theorem State.emitSend_ctrl (s : State) (f : List Byte) : (s.emitSend f).ctrl = s.ctrl := rfl
@[simp] theorem State.emitSend_arp (s : State) (f : List Byte) : (s.emitSend f).arp = s.arp := rfl
@[simp] theorem State.emitSend_rq (s : State) (f : List Byte) : (s.emitSend f).rq = s.rq := rfl
@[simp] theorem State.emitSend_pmap (s : State) (f : List Byte) : (s.emitSend f).pmap = s.pmap := rfl
@[simp] theorem State.emitSend_dhcp (s : State) (f : List Byte) : (s.emitSend f).dhcp = s.dhcp := rfl
@[simp] theorem State.emitSend_stats (s : State) (f : List Byte) : (s.emitSend f).stats = s.stats := rfl
@[simp] theorem State.emitSend_port (s : State) (f : List Byte) : (s.emitSend f).port = s.port := rfl
@[simp] theorem State.emitSend_bufA (s : State) (f : List Byte) : (s.emitSend f).bufA = s.bufA := rfl
@[simp] theorem State.emitSend_bufB (s : State) (f : List Byte) : (s.emitSend f).bufB = s.bufB := rfl
@[simp] theorem State.emitSend_bufOut (s : State) (f : List Byte) : (s.emitSend f).bufOut = s.bufOut := rfl
@[simp] theorem State.emitSend_events (s : State) (f : List Byte) :
    (s.emitSend f).events = s.events ++ [.send f] := rfl
@[simp] theorem State.emitSend_cmdPending (s : State) (f : List Byte) :
    (s.emitSend f).cmdPending = s.cmdPending := rfl
@[simp] theorem State.emitSend_answers (s : State) (f : List Byte) : (s.emitSend f).answers = s.answers.tail := rfl
@[simp] theorem State.emitSend_sendCount (s : State) (f : List Byte) :
    (s.emitSend f).sendCount = s.sendCount + 1 := rfl
@[simp] theorem State.emitSend_env (s : State) (f : List Byte) : (s.emitSend f).env = s.env := rfl

/-! ### `State.setDhcp` -/

@[simp] theorem State.setDhcp_params (s : State) (d : Dhcp) : (s.setDhcp d).params = s.params := rfl
@[simp] theorem State.setDhcp_ident (s : State) (d : Dhcp) : (s.setDhcp d).ident = s.ident := rfl
@[simp] theorem State.setDhcp_ctrl (s : State) (d : Dhcp) : (s.setDhcp d).ctrl = s.ctrl := rfl
@[simp] theorem State.setDhcp_arp (s : State) (d : Dhcp) : (s.setDhcp d).arp = s.arp := rfl
@[simp] theorem State.setDhcp_rq (s : State) (d : Dhcp) : (s.setDhcp d).rq = s.rq := rfl
@[simp] theorem State.setDhcp_pmap (s : State) (d : Dhcp) : (s.setDhcp d).pmap = s.pmap := rfl
@[simp] theorem State.setDhcp_dhcp (s : State) (d : Dhcp) : (s.setDhcp d).dhcp = d := rfl
@[simp] theorem State.setDhcp_stats (s : State) (d : Dhcp) : (s.setDhcp d).stats = s.stats := rfl
@[simp] theorem State.setDhcp_port (s : State) (d : Dhcp) : (s.setDhcp d).port = s.port := rfl
@[simp] theorem State.setDhcp_bufA (s : State) (d : Dhcp) : (s.setDhcp d).bufA = s.bufA := rfl
@[simp] theorem State.setDhcp_bufB (s : State) (d : Dhcp) : (s.setDhcp d).bufB = s.bufB := rfl
@[simp] theorem State.setDhcp_bufOut (s : State) (d : Dhcp) : (s.setDhcp d).bufOut = s.bufOut := rfl
@[simp] theorem State.setDhcp_events (s : State) (d : Dhcp) : (s.setDhcp d).events = s.events := rfl
@[simp] theorem State.setDhcp_cmdPending (s : State) (d : Dhcp) : (s.setDhcp d).cmdPending = s.cmdPending := rfl
@[simp] theorem State.setDhcp_answers (s : State) (d : Dhcp) : (s.setDhcp d).answers = s.answers := rfl
@[simp] theorem State.setDhcp_sendCount (s : State) (d : Dhcp) : (s.setDhcp d).sendCount = s.sendCount := rfl
@[simp] theorem State.setDhcp_env (s : State) (d : Dhcp) : (s.setDhcp d).env = s.env := rfl

/-! ### `State.clearFlow` -/

@[simp] theorem State.clearFlow_params (s : State) (i : Nat) : (s.clearFlow i).params = s.params := rfl
@[simp] theorem State.clearFlow_ident (s : State) (i : Nat) : (s.clearFlow i).ident = s.ident := rfl
@[simp] theorem State.clearFlow_ctrl (s : State) (i : Nat) : (s.clearFlow i).ctrl = s.ctrl := rfl
@[simp] theorem State.clearFlow_arp (s : State) (i : Nat) : (s.clearFlow i).arp = s.arp := rfl
@[simp] theorem State.clearFlow_rq (s : State) (i : Nat) : (s.clearFlow i).rq = s.rq := rfl
@[simp] theorem State.clearFlow_pmap (s : State) (i : Nat) :
    (s.clearFlow i).pmap = s.pmap.set i PmapEntry.zero := rfl
@[simp] theorem State.clearFlow_dhcp (s : State) (i : Nat) : (s.clearFlow i).dhcp = s.dhcp := rfl
@[simp] theorem State.clearFlow_stats (s : State) (i : Nat) : (s.clearFlow i).stats = s.stats := rfl
@[simp] theorem State.clearFlow_port (s : State) (i : Nat) : (s.clearFlow i).port = s.port := rfl
@[simp] theorem State.clearFlow_bufA (s : State) (i : Nat) : (s.clearFlow i).bufA = s.bufA := rfl
@[simp] theorem State.clearFlow_bufB (s : State) (i : Nat) : (s.clearFlow i).bufB = s.bufB := rfl
@[simp] theorem State.clearFlow_bufOut (s : State) (i : Nat) : (s.clearFlow i).bufOut = s.bufOut := rfl
@[simp] theorem State.clearFlow_events (s : State) (i : Nat) : (s.clearFlow i).events = s.events := rfl
@[simp] theorem State.clearFlow_cmdPending (s : State) (i : Nat) : (s.clearFlow i).cmdPending = s.cmdPending := rfl
@[simp] theorem State.clearFlow_answers (s : State) (i : Nat) : (s.clearFlow i).answers = s.answers := rfl
@[simp] theorem State.clearFlow_sendCount (s : State) (i : Nat) : (s.clearFlow i).sendCount = s.sendCount := rfl
@[simp] theorem State.clearFlow_env (s : State) (i : Nat) : (s.clearFlow i).env = s.env := rfl

/-! ### `State.putOut` -/

@[simp] theorem State.putOut_params (s : State) (p : List Byte) : (s.putOut p).params = s.params := rfl
@[simp] theorem State.putOut_ident (s : State) (p : List Byte) : (s.putOut p).ident = s.ident := rfl
@[simp] theorem State.putOut_ctrl (s : State) (p : List Byte) : (s.putOut p).ctrl = s.ctrl := rfl
@[simp] theorem State.putOut_arp (s : State) (p : List Byte) : (s.putOut p).arp = s.arp := rfl
@[simp] theorem State.putOut_rq (s : State) (p : List Byte) : (s.putOut p).rq = s.rq := rfl
@[simp] theorem State.putOut_pmap (s : State) (p : List Byte) : (s.putOut p).pmap = s.pmap := rfl
@[simp] theorem State.putOut_dhcp (s : State) (p : List Byte) : (s.putOut p).dhcp = s.dhcp := rfl
@[simp] theorem State.putOut_stats (s : State) (p : List Byte) : (s.putOut p).stats = s.stats := rfl
@[simp] theorem State.putOut_port (s : State) (p : List Byte) :
    (s.putOut p).port = { s.port with lenOut := BitVec.ofNat 16 p.length } := rfl
@[simp] theorem State.putOut_bufA (s : State) (p : List Byte) : (s.putOut p).bufA = s.bufA := rfl
@[simp] theorem State.putOut_bufB (s : State) (p : List Byte) : (s.putOut p).bufB = s.bufB := rfl
@[simp] theorem State.putOut_bufOut (s : State) (p : List Byte) :
    (s.putOut p).bufOut = s.bufOut.writeBytes 0 p := rfl
@[simp] theorem State.putOut_events (s : State) (p : List Byte) : (s.putOut p).events = s.events := rfl
@[simp] theorem State.putOut_cmdPending (s : State) (p : List Byte) : (s.putOut p).cmdPending = s.cmdPending := rfl
@[simp] theorem State.putOut_answers (s : State) (p : List Byte) : (s.putOut p).answers = s.answers := rfl
@[simp] theorem State.putOut_sendCount (s : State) (p : List Byte) : (s.putOut p).sendCount = s.sendCount := rfl
@[simp] theorem State.putOut_env (s : State) (p : List Byte) : (s.putOut p).env = s.env := rfl

/-! ### `State.putCsum` -/

@[simp] theorem State.putCsum_params (s : State) (v : BitVec 16) : (s.putCsum v).params = s.params := rfl
@[simp] theorem State.putCsum_ident (s : State) (v : BitVec 16) : (s.putCsum v).ident = s.ident := rfl
@[simp] theorem State.putCsum_ctrl (s : State) (v : BitVec 16) : (s.putCsum v).ctrl = s.ctrl := rfl
@[simp] theorem State.putCsum_arp (s : State) (v : BitVec 16) : (s.putCsum v).arp = s.arp := rfl
@[simp] theorem State.putCsum_rq (s : State) (v : BitVec 16) : (s.putCsum v).rq = s.rq := rfl
@[simp] theorem State.putCsum_pmap (s : State) (v : BitVec 16) : (s.putCsum v).pmap = s.pmap := rfl
@[simp] theorem State.putCsum_dhcp (s : State) (v : BitVec 16) : (s.putCsum v).dhcp = s.dhcp := rfl
@[simp] theorem State.putCsum_stats (s : State) (v : BitVec 16) : (s.putCsum v).stats = s.stats := rfl
@[simp] theorem State.putCsum_port (s : State) (v : BitVec 16) :
    (s.putCsum v).port = { s.port with resCsum := v } := rfl
@[simp] theorem State.putCsum_bufA (s : State) (v : BitVec 16) : (s.putCsum v).bufA = s.bufA := rfl
@[simp] theorem State.putCsum_bufB (s : State) (v : BitVec 16) : (s.putCsum v).bufB = s.bufB := rfl
@[simp] theorem State.putCsum_bufOut (s : State) (v : BitVec 16) : (s.putCsum v).bufOut = s.bufOut := rfl
@[simp] theorem State.putCsum_events (s : State) (v : BitVec 16) : (s.putCsum v).events = s.events := rfl
@[simp] theorem State.putCsum_cmdPending (s : State) (v : BitVec 16) :
    (s.putCsum v).cmdPending = s.cmdPending := rfl
@[simp] theorem State.putCsum_answers (s : State) (v : BitVec 16) : (s.putCsum v).answers = s.answers := rfl
@[simp] theorem State.putCsum_sendCount (s : State) (v : BitVec 16) : (s.putCsum v).sendCount = s.sendCount := rfl
@[simp] theorem State.putCsum_env (s : State) (v : BitVec 16) : (s.putCsum v).env = s.env := rfl

/-! ### `State.clearTables` -/

@[simp] theorem State.clearTables_params (s : State) : (s.clearTables).params = s.params := rfl
@[simp] theorem State.clearTables_ident (s : State) : (s.clearTables).ident = s.ident := rfl
@[simp] theorem State.clearTables_ctrl (s : State) : (s.clearTables).ctrl = s.ctrl := rfl
@[simp] theorem State.clearTables_arp (s : State) :
    (s.clearTables).arp = List.replicate s.params.arpCapacity ArpEntry.zero := rfl
@[simp] theorem State.clearTables_rq (s : State) :
    (s.clearTables).rq = List.replicate s.params.rqPool RqSlot.zero := rfl
@[simp] theorem State.clearTables_pmap (s : State) :
    (s.clearTables).pmap = List.replicate s.params.pmapCapacity PmapEntry.zero := rfl
@[simp] theorem State.clearTables_dhcp (s : State) : (s.clearTables).dhcp = s.dhcp := rfl
@[simp] theorem State.clearTables_stats (s : State) : (s.clearTables).stats = s.stats := rfl
@[simp] theorem State.clearTables_port (s : State) : (s.clearTables).port = s.port := rfl
@[simp] theorem State.clearTables_bufA (s : State) : (s.clearTables).bufA = s.bufA := rfl
@[simp] theorem State.clearTables_bufB (s : State) : (s.clearTables).bufB = s.bufB := rfl
@[simp] theorem State.clearTables_bufOut (s : State) : (s.clearTables).bufOut = s.bufOut := rfl
@[simp] theorem State.clearTables_events (s : State) : (s.clearTables).events = s.events := rfl
@[simp] theorem State.clearTables_cmdPending (s : State) : (s.clearTables).cmdPending = s.cmdPending := rfl
@[simp] theorem State.clearTables_answers (s : State) : (s.clearTables).answers = s.answers := rfl
@[simp] theorem State.clearTables_sendCount (s : State) : (s.clearTables).sendCount = s.sendCount := rfl
@[simp] theorem State.clearTables_env (s : State) : (s.clearTables).env = s.env := rfl

/-! ### `State.accept` -/

@[simp] theorem State.accept_params (s : State) : (s.accept).params = s.params := rfl
@[simp] theorem State.accept_ident (s : State) : (s.accept).ident = s.ident := rfl
@[simp] theorem State.accept_ctrl (s : State) : (s.accept).ctrl = s.ctrl := rfl
@[simp] theorem State.accept_arp (s : State) : (s.accept).arp = s.arp := rfl
@[simp] theorem State.accept_rq (s : State) : (s.accept).rq = s.rq := rfl
@[simp] theorem State.accept_pmap (s : State) : (s.accept).pmap = s.pmap := rfl
@[simp] theorem State.accept_dhcp (s : State) : (s.accept).dhcp = s.dhcp := rfl
@[simp] theorem State.accept_stats (s : State) : (s.accept).stats = s.stats := rfl
@[simp] theorem State.accept_port (s : State) : (s.accept).port = s.port := rfl
@[simp] theorem State.accept_bufA (s : State) : (s.accept).bufA = s.bufA := rfl
@[simp] theorem State.accept_bufB (s : State) : (s.accept).bufB = s.bufB := rfl
@[simp] theorem State.accept_bufOut (s : State) : (s.accept).bufOut = s.bufOut := rfl
@[simp] theorem State.accept_events (s : State) : (s.accept).events = [] := rfl
@[simp] theorem State.accept_cmdPending (s : State) : (s.accept).cmdPending = false := rfl
@[simp] theorem State.accept_answers (s : State) : (s.accept).answers = s.answers := rfl
@[simp] theorem State.accept_sendCount (s : State) : (s.accept).sendCount = s.sendCount := rfl
@[simp] theorem State.accept_env (s : State) : (s.accept).env = s.env := rfl

/-! ### `State.writeCmd` -/

@[simp] theorem State.writeCmd_params (s : State) (w : BitVec 8) : (s.writeCmd w).params = s.params := rfl
@[simp] theorem State.writeCmd_ident (s : State) (w : BitVec 8) : (s.writeCmd w).ident = s.ident := rfl
@[simp] theorem State.writeCmd_ctrl (s : State) (w : BitVec 8) : (s.writeCmd w).ctrl = s.ctrl := rfl
@[simp] theorem State.writeCmd_arp (s : State) (w : BitVec 8) : (s.writeCmd w).arp = s.arp := rfl
@[simp] theorem State.writeCmd_rq (s : State) (w : BitVec 8) : (s.writeCmd w).rq = s.rq := rfl
@[simp] theorem State.writeCmd_pmap (s : State) (w : BitVec 8) : (s.writeCmd w).pmap = s.pmap := rfl
@[simp] theorem State.writeCmd_dhcp (s : State) (w : BitVec 8) : (s.writeCmd w).dhcp = s.dhcp := rfl
@[simp] theorem State.writeCmd_stats (s : State) (w : BitVec 8) : (s.writeCmd w).stats = s.stats := rfl
@[simp] theorem State.writeCmd_port (s : State) (w : BitVec 8) :
    (s.writeCmd w).port = { s.port with cmd := w } := rfl
@[simp] theorem State.writeCmd_bufA (s : State) (w : BitVec 8) : (s.writeCmd w).bufA = s.bufA := rfl
@[simp] theorem State.writeCmd_bufB (s : State) (w : BitVec 8) : (s.writeCmd w).bufB = s.bufB := rfl
@[simp] theorem State.writeCmd_bufOut (s : State) (w : BitVec 8) : (s.writeCmd w).bufOut = s.bufOut := rfl
@[simp] theorem State.writeCmd_events (s : State) (w : BitVec 8) : (s.writeCmd w).events = s.events := rfl
@[simp] theorem State.writeCmd_cmdPending (s : State) (w : BitVec 8) : (s.writeCmd w).cmdPending = true := rfl
@[simp] theorem State.writeCmd_answers (s : State) (w : BitVec 8) : (s.writeCmd w).answers = s.answers := rfl
@[simp] theorem State.writeCmd_sendCount (s : State) (w : BitVec 8) : (s.writeCmd w).sendCount = s.sendCount := rfl
@[simp] theorem State.writeCmd_env (s : State) (w : BitVec 8) : (s.writeCmd w).env = s.env := rfl

/-! ### `dhClear` -/

@[simp] theorem dhClear_params (s : State) : (dhClear s).params = s.params := rfl
@[simp] theorem dhClear_ident (s : State) :
    (dhClear s).ident = { s.ident with ownIp := 0#32, ownMask := 0#32, gatewayIp := 0#32 } := rfl
@[simp] theorem dhClear_ctrl (s : State) : (dhClear s).ctrl = s.ctrl := rfl
@[simp] theorem dhClear_arp (s : State) : (dhClear s).arp = s.arp := rfl
@[simp] theorem dhClear_rq (s : State) : (dhClear s).rq = s.rq := rfl
@[simp] theorem dhClear_pmap (s : State) : (dhClear s).pmap = s.pmap := rfl
@[simp] theorem dhClear_dhcp (s : State) :
    (dhClear s).dhcp = { s.dhcp with
      address := 0#32, mask := 0#32, gateway := 0#32, leaseSeconds := 0#32, renewAt := 0#32,
      rebindAt := 0#32, retryWait := 0#16, retryBackoff := 0#16 } := rfl
@[simp] theorem dhClear_stats (s : State) : (dhClear s).stats = s.stats := rfl
@[simp] theorem dhClear_port (s : State) : (dhClear s).port = s.port := rfl
@[simp] theorem dhClear_bufA (s : State) : (dhClear s).bufA = s.bufA := rfl
@[simp] theorem dhClear_bufB (s : State) : (dhClear s).bufB = s.bufB := rfl
@[simp] theorem dhClear_bufOut (s : State) : (dhClear s).bufOut = s.bufOut := rfl
@[simp] theorem dhClear_events (s : State) : (dhClear s).events = s.events := rfl
@[simp] theorem dhClear_cmdPending (s : State) : (dhClear s).cmdPending = s.cmdPending := rfl
@[simp] theorem dhClear_answers (s : State) : (dhClear s).answers = s.answers := rfl
@[simp] theorem dhClear_sendCount (s : State) : (dhClear s).sendCount = s.sendCount := rfl
@[simp] theorem dhClear_env (s : State) : (dhClear s).env = s.env := rfl

/-! ### `arpAgeTick` -/

@[simp] theorem arpAgeTick_params (s : State) : (arpAgeTick s).params = s.params := rfl
@[simp] theorem arpAgeTick_ident (s : State) : (arpAgeTick s).ident = s.ident := rfl
@[simp] theorem arpAgeTick_ctrl (s : State) : (arpAgeTick s).ctrl = s.ctrl := rfl
@[simp] theorem arpAgeTick_arp (s : State) : (arpAgeTick s).arp = s.arp.map (ArpEntry.tick s.params) := rfl
@[simp] theorem arpAgeTick_rq (s : State) : (arpAgeTick s).rq = s.rq := rfl
@[simp] theorem arpAgeTick_pmap (s : State) : (arpAgeTick s).pmap = s.pmap := rfl
@[simp] theorem arpAgeTick_dhcp (s : State) : (arpAgeTick s).dhcp = s.dhcp := rfl
@[simp] theorem arpAgeTick_stats (s : State) : (arpAgeTick s).stats = s.stats := rfl
@[simp] theorem arpAgeTick_port (s : State) : (arpAgeTick s).port = s.port := rfl
@[simp] theorem arpAgeTick_bufA (s : State) : (arpAgeTick s).bufA = s.bufA := rfl
@[simp] theorem arpAgeTick_bufB (s : State) : (arpAgeTick s).bufB = s.bufB := rfl
@[simp] theorem arpAgeTick_bufOut (s : State) : (arpAgeTick s).bufOut = s.bufOut := rfl
@[simp] theorem arpAgeTick_events (s : State) : (arpAgeTick s).events = s.events := rfl
@[simp] theorem arpAgeTick_cmdPending (s : State) : (arpAgeTick s).cmdPending = s.cmdPending := rfl
@[simp] theorem arpAgeTick_answers (s : State) : (arpAgeTick s).answers = s.answers := rfl
@[simp] theorem arpAgeTick_sendCount (s : State) : (arpAgeTick s).sendCount = s.sendCount := rfl
@[simp] theorem arpAgeTick_env (s : State) : (arpAgeTick s).env = s.env := rfl

/-! ### `rqTick` -/

@[simp] theorem rqTick_params (s : State) : (rqTick s).params = s.params := rfl
@[simp] theorem rqTick_ident (s : State) : (rqTick s).ident = s.ident := rfl
@[simp] theorem rqTick_ctrl (s : State) : (rqTick s).ctrl = s.ctrl := rfl
@[simp] theorem rqTick_arp (s : State) : (rqTick s).arp = s.arp := rfl
@[simp] theorem rqTick_rq (s : State) : (rqTick s).rq = s.rq.map RqSlot.tick := rfl
@[simp] theorem rqTick_pmap (s : State) : (rqTick s).pmap = s.pmap := rfl
@[simp] theorem rqTick_dhcp (s : State) : (rqTick s).dhcp = s.dhcp := rfl
@[simp] theorem rqTick_stats (s : State) :
    (rqTick s).stats = { s.stats with
      rqExpired := s.stats.rqExpired + BitVec.ofNat 32 (s.rq.countP RqSlot.expires) } := rfl
@[simp] theorem rqTick_port (s : State) : (rqTick s).port = s.port := rfl
@[simp] theorem rqTick_bufA (s : State) : (rqTick s).bufA = s.bufA := rfl
@[simp] theorem rqTick_bufB (s : State) : (rqTick s).bufB = s.bufB := rfl
@[simp] theorem rqTick_bufOut (s : State) : (rqTick s).bufOut = s.bufOut := rfl
@[simp] theorem rqTick_events (s : State) : (rqTick s).events = s.events := rfl
@[simp] theorem rqTick_cmdPending (s : State) : (rqTick s).cmdPending = s.cmdPending := rfl
@[simp] theorem rqTick_answers (s : State) : (rqTick s).answers = s.answers := rfl
@[simp] theorem rqTick_sendCount (s : State) : (rqTick s).sendCount = s.sendCount := rfl
@[simp] theorem rqTick_env (s : State) : (rqTick s).env = s.env := rfl

/-! ### `pmapTick` -/

@[simp] theorem pmapTick_params (s : State) : (pmapTick s).params = s.params := rfl
@[simp] theorem pmapTick_ident (s : State) : (pmapTick s).ident = s.ident := rfl
@[simp] theorem pmapTick_ctrl (s : State) : (pmapTick s).ctrl = s.ctrl := rfl
@[simp] theorem pmapTick_arp (s : State) : (pmapTick s).arp = s.arp := rfl
@[simp] theorem pmapTick_rq (s : State) : (pmapTick s).rq = s.rq := rfl
@[simp] theorem pmapTick_pmap (s : State) : (pmapTick s).pmap = s.pmap.map PmapEntry.tick := rfl
@[simp] theorem pmapTick_dhcp (s : State) : (pmapTick s).dhcp = s.dhcp := rfl
@[simp] theorem pmapTick_stats (s : State) : (pmapTick s).stats = s.stats := rfl
@[simp] theorem pmapTick_port (s : State) : (pmapTick s).port = s.port := rfl
@[simp] theorem pmapTick_bufA (s : State) : (pmapTick s).bufA = s.bufA := rfl
@[simp] theorem pmapTick_bufB (s : State) : (pmapTick s).bufB = s.bufB := rfl
@[simp] theorem pmapTick_bufOut (s : State) : (pmapTick s).bufOut = s.bufOut := rfl
@[simp] theorem pmapTick_events (s : State) : (pmapTick s).events = s.events := rfl
@[simp] theorem pmapTick_cmdPending (s : State) : (pmapTick s).cmdPending = s.cmdPending := rfl
@[simp] theorem pmapTick_answers (s : State) : (pmapTick s).answers = s.answers := rfl
@[simp] theorem pmapTick_sendCount (s : State) : (pmapTick s).sendCount = s.sendCount := rfl
@[simp] theorem pmapTick_env (s : State) : (pmapTick s).env = s.env := rfl

/-! ### `attachState` -/

@[simp] theorem attachState_params (s : State) : (attachState s).params = s.params := rfl
@[simp] theorem attachState_ident (s : State) : (attachState s).ident = s.ident := rfl
@[simp] theorem attachState_ctrl (s : State) : (attachState s).ctrl = { s.ctrl with attached := true } := rfl
@[simp] theorem attachState_arp (s : State) :
    (attachState s).arp = List.replicate s.params.arpCapacity ArpEntry.zero := rfl
@[simp] theorem attachState_rq (s : State) : (attachState s).rq = List.replicate s.params.rqPool RqSlot.zero := rfl
@[simp] theorem attachState_pmap (s : State) :
    (attachState s).pmap = List.replicate s.params.pmapCapacity PmapEntry.zero := rfl
@[simp] theorem attachState_dhcp (s : State) : (attachState s).dhcp = Dhcp.zero := rfl
@[simp] theorem attachState_stats (s : State) : (attachState s).stats = Counters.zero := rfl
@[simp] theorem attachState_port (s : State) : (attachState s).port = s.port := rfl
@[simp] theorem attachState_bufA (s : State) : (attachState s).bufA = s.bufA := rfl
@[simp] theorem attachState_bufB (s : State) : (attachState s).bufB = s.bufB := rfl
@[simp] theorem attachState_bufOut (s : State) : (attachState s).bufOut = s.bufOut := rfl
@[simp] theorem attachState_events (s : State) : (attachState s).events = s.events := rfl
@[simp] theorem attachState_cmdPending (s : State) : (attachState s).cmdPending = s.cmdPending := rfl
@[simp] theorem attachState_answers (s : State) : (attachState s).answers = s.answers := rfl
@[simp] theorem attachState_sendCount (s : State) : (attachState s).sendCount = s.sendCount := rfl
@[simp] theorem attachState_env (s : State) : (attachState s).env = s.env := rfl

/-! ### `dhCountDown` -/

@[simp] theorem dhCountDown_params (s : State) : (dhCountDown s).params = s.params := rfl
@[simp] theorem dhCountDown_ident (s : State) : (dhCountDown s).ident = s.ident := rfl
@[simp] theorem dhCountDown_ctrl (s : State) : (dhCountDown s).ctrl = s.ctrl := rfl
@[simp] theorem dhCountDown_arp (s : State) : (dhCountDown s).arp = s.arp := rfl
@[simp] theorem dhCountDown_rq (s : State) : (dhCountDown s).rq = s.rq := rfl
@[simp] theorem dhCountDown_pmap (s : State) : (dhCountDown s).pmap = s.pmap := rfl
@[simp] theorem dhCountDown_dhcp (s : State) :
    (dhCountDown s).dhcp = { s.dhcp with
      leaseSeconds := down s.dhcp.leaseSeconds, renewAt := down s.dhcp.renewAt, rebindAt := down s.dhcp.rebindAt } := rfl
@[simp] theorem dhCountDown_stats (s : State) : (dhCountDown s).stats = s.stats := rfl
@[simp] theorem dhCountDown_port (s : State) : (dhCountDown s).port = s.port := rfl
@[simp] theorem dhCountDown_bufA (s : State) : (dhCountDown s).bufA = s.bufA := rfl
@[simp] theorem dhCountDown_bufB (s : State) : (dhCountDown s).bufB = s.bufB := rfl
@[simp] theorem dhCountDown_bufOut (s : State) : (dhCountDown s).bufOut = s.bufOut := rfl
@[simp] theorem dhCountDown_events (s : State) : (dhCountDown s).events = s.events := rfl
@[simp] theorem dhCountDown_cmdPending (s : State) : (dhCountDown s).cmdPending = s.cmdPending := rfl
@[simp] theorem dhCountDown_answers (s : State) : (dhCountDown s).answers = s.answers := rfl
@[simp] theorem dhCountDown_sendCount (s : State) : (dhCountDown s).sendCount = s.sendCount := rfl
@[simp] theorem dhCountDown_env (s : State) : (dhCountDown s).env = s.env := rfl

/-! ### `dhArmBackoff` -/

@[simp] theorem dhArmBackoff_params (s : State) : (dhArmBackoff s).params = s.params := rfl
@[simp] theorem dhArmBackoff_ident (s : State) : (dhArmBackoff s).ident = s.ident := rfl
@[simp] theorem dhArmBackoff_ctrl (s : State) : (dhArmBackoff s).ctrl = s.ctrl := rfl
@[simp] theorem dhArmBackoff_arp (s : State) : (dhArmBackoff s).arp = s.arp := rfl
@[simp] theorem dhArmBackoff_rq (s : State) : (dhArmBackoff s).rq = s.rq := rfl
@[simp] theorem dhArmBackoff_pmap (s : State) : (dhArmBackoff s).pmap = s.pmap := rfl
@[simp] theorem dhArmBackoff_dhcp (s : State) :
    (dhArmBackoff s).dhcp = { s.dhcp with
      retryBackoff := s.params.dhcpBackoffInit, retryWait := s.params.dhcpBackoffInit } := rfl
@[simp] theorem dhArmBackoff_stats (s : State) : (dhArmBackoff s).stats = s.stats := rfl
@[simp] theorem dhArmBackoff_port (s : State) : (dhArmBackoff s).port = s.port := rfl
@[simp] theorem dhArmBackoff_bufA (s : State) : (dhArmBackoff s).bufA = s.bufA := rfl
@[simp] theorem dhArmBackoff_bufB (s : State) : (dhArmBackoff s).bufB = s.bufB := rfl
@[simp] theorem dhArmBackoff_bufOut (s : State) : (dhArmBackoff s).bufOut = s.bufOut := rfl
@[simp] theorem dhArmBackoff_events (s : State) : (dhArmBackoff s).events = s.events := rfl
@[simp] theorem dhArmBackoff_cmdPending (s : State) : (dhArmBackoff s).cmdPending = s.cmdPending := rfl
@[simp] theorem dhArmBackoff_answers (s : State) : (dhArmBackoff s).answers = s.answers := rfl
@[simp] theorem dhArmBackoff_sendCount (s : State) : (dhArmBackoff s).sendCount = s.sendCount := rfl
@[simp] theorem dhArmBackoff_env (s : State) : (dhArmBackoff s).env = s.env := rfl

/-! ### `dhClearToOff` -/

@[simp] theorem dhClearToOff_params (s : State) : (dhClearToOff s).params = s.params := rfl
@[simp] theorem dhClearToOff_ident (s : State) :
    (dhClearToOff s).ident = { s.ident with ownIp := 0#32, ownMask := 0#32, gatewayIp := 0#32 } := rfl
@[simp] theorem dhClearToOff_ctrl (s : State) : (dhClearToOff s).ctrl = s.ctrl := rfl
@[simp] theorem dhClearToOff_arp (s : State) : (dhClearToOff s).arp = s.arp := rfl
@[simp] theorem dhClearToOff_rq (s : State) : (dhClearToOff s).rq = s.rq := rfl
@[simp] theorem dhClearToOff_pmap (s : State) : (dhClearToOff s).pmap = s.pmap := rfl
@[simp] theorem dhClearToOff_dhcp (s : State) :
    (dhClearToOff s).dhcp = { (dhClear s).dhcp with state := .off } := rfl
@[simp] theorem dhClearToOff_stats (s : State) : (dhClearToOff s).stats = s.stats := rfl
@[simp] theorem dhClearToOff_port (s : State) : (dhClearToOff s).port = s.port := rfl
@[simp] theorem dhClearToOff_bufA (s : State) : (dhClearToOff s).bufA = s.bufA := rfl
@[simp] theorem dhClearToOff_bufB (s : State) : (dhClearToOff s).bufB = s.bufB := rfl
@[simp] theorem dhClearToOff_bufOut (s : State) : (dhClearToOff s).bufOut = s.bufOut := rfl
@[simp] theorem dhClearToOff_events (s : State) : (dhClearToOff s).events = s.events := rfl
@[simp] theorem dhClearToOff_cmdPending (s : State) : (dhClearToOff s).cmdPending = s.cmdPending := rfl
@[simp] theorem dhClearToOff_answers (s : State) : (dhClearToOff s).answers = s.answers := rfl
@[simp] theorem dhClearToOff_sendCount (s : State) : (dhClearToOff s).sendCount = s.sendCount := rfl
@[simp] theorem dhClearToOff_env (s : State) : (dhClearToOff s).env = s.env := rfl

/-! ### `State.withOut` -/

@[simp] theorem State.withOut_params (s : State) (q : List Byte) : (s.withOut q).params = s.params := rfl
@[simp] theorem State.withOut_ident (s : State) (q : List Byte) : (s.withOut q).ident = s.ident := rfl
@[simp] theorem State.withOut_ctrl (s : State) (q : List Byte) : (s.withOut q).ctrl = s.ctrl := rfl
@[simp] theorem State.withOut_arp (s : State) (q : List Byte) : (s.withOut q).arp = s.arp := rfl
@[simp] theorem State.withOut_rq (s : State) (q : List Byte) : (s.withOut q).rq = s.rq := rfl
@[simp] theorem State.withOut_pmap (s : State) (q : List Byte) : (s.withOut q).pmap = s.pmap := rfl
@[simp] theorem State.withOut_dhcp (s : State) (q : List Byte) : (s.withOut q).dhcp = s.dhcp := rfl
@[simp] theorem State.withOut_stats (s : State) (q : List Byte) : (s.withOut q).stats = s.stats := rfl
@[simp] theorem State.withOut_port (s : State) (q : List Byte) :
    (s.withOut q).port = { s.port with lenOut := BitVec.ofNat 16 q.length, status := 0#8 } := rfl
@[simp] theorem State.withOut_bufA (s : State) (q : List Byte) : (s.withOut q).bufA = s.bufA := rfl
@[simp] theorem State.withOut_bufB (s : State) (q : List Byte) : (s.withOut q).bufB = s.bufB := rfl
@[simp] theorem State.withOut_bufOut (s : State) (q : List Byte) :
    (s.withOut q).bufOut = s.bufOut.writeBytes 0 q := rfl
@[simp] theorem State.withOut_events (s : State) (q : List Byte) : (s.withOut q).events = s.events := rfl
@[simp] theorem State.withOut_cmdPending (s : State) (q : List Byte) :
    (s.withOut q).cmdPending = s.cmdPending := rfl
@[simp] theorem State.withOut_answers (s : State) (q : List Byte) : (s.withOut q).answers = s.answers := rfl
@[simp] theorem State.withOut_sendCount (s : State) (q : List Byte) : (s.withOut q).sendCount = s.sendCount := rfl
@[simp] theorem State.withOut_env (s : State) (q : List Byte) : (s.withOut q).env = s.env := rfl

/-! ### `State.dhcpCleared` -/

@[simp] theorem State.dhcpCleared_params (s : State) : (s.dhcpCleared).params = s.params := rfl
@[simp] theorem State.dhcpCleared_ident (s : State) :
    (s.dhcpCleared).ident = { s.ident with ownIp := 0#32, ownMask := 0#32, gatewayIp := 0#32 } := rfl
@[simp] theorem State.dhcpCleared_ctrl (s : State) : (s.dhcpCleared).ctrl = s.ctrl := rfl
@[simp] theorem State.dhcpCleared_arp (s : State) : (s.dhcpCleared).arp = s.arp := rfl
@[simp] theorem State.dhcpCleared_rq (s : State) : (s.dhcpCleared).rq = s.rq := rfl
@[simp] theorem State.dhcpCleared_pmap (s : State) : (s.dhcpCleared).pmap = s.pmap := rfl
@[simp] theorem State.dhcpCleared_dhcp (s : State) :
    (s.dhcpCleared).dhcp = { (dhClear s).dhcp with state := .off } := rfl
@[simp] theorem State.dhcpCleared_stats (s : State) : (s.dhcpCleared).stats = s.stats := rfl
@[simp] theorem State.dhcpCleared_port (s : State) : (s.dhcpCleared).port = s.port := rfl
@[simp] theorem State.dhcpCleared_bufA (s : State) : (s.dhcpCleared).bufA = s.bufA := rfl
@[simp] theorem State.dhcpCleared_bufB (s : State) : (s.dhcpCleared).bufB = s.bufB := rfl
@[simp] theorem State.dhcpCleared_bufOut (s : State) : (s.dhcpCleared).bufOut = s.bufOut := rfl
@[simp] theorem State.dhcpCleared_events (s : State) : (s.dhcpCleared).events = s.events := rfl
@[simp] theorem State.dhcpCleared_cmdPending (s : State) : (s.dhcpCleared).cmdPending = s.cmdPending := rfl
@[simp] theorem State.dhcpCleared_answers (s : State) : (s.dhcpCleared).answers = s.answers := rfl
@[simp] theorem State.dhcpCleared_sendCount (s : State) : (s.dhcpCleared).sendCount = s.sendCount := rfl
@[simp] theorem State.dhcpCleared_env (s : State) : (s.dhcpCleared).env = s.env := rfl

/-! ### `State.withStatus` -/

@[simp] theorem State.withStatus_params (s : State) (c : BitVec 8) : (s.withStatus c).params = s.params := rfl
@[simp] theorem State.withStatus_ident (s : State) (c : BitVec 8) : (s.withStatus c).ident = s.ident := rfl
@[simp] theorem State.withStatus_ctrl (s : State) (c : BitVec 8) : (s.withStatus c).ctrl = s.ctrl := rfl
@[simp] theorem State.withStatus_arp (s : State) (c : BitVec 8) : (s.withStatus c).arp = s.arp := rfl
@[simp] theorem State.withStatus_rq (s : State) (c : BitVec 8) : (s.withStatus c).rq = s.rq := rfl
@[simp] theorem State.withStatus_pmap (s : State) (c : BitVec 8) : (s.withStatus c).pmap = s.pmap := rfl
@[simp] theorem State.withStatus_dhcp (s : State) (c : BitVec 8) : (s.withStatus c).dhcp = s.dhcp := rfl
@[simp] theorem State.withStatus_stats (s : State) (c : BitVec 8) : (s.withStatus c).stats = s.stats := rfl
@[simp] theorem State.withStatus_port (s : State) (c : BitVec 8) :
    (s.withStatus c).port = { s.port with status := c } := rfl
@[simp] theorem State.withStatus_bufA (s : State) (c : BitVec 8) : (s.withStatus c).bufA = s.bufA := rfl
@[simp] theorem State.withStatus_bufB (s : State) (c : BitVec 8) : (s.withStatus c).bufB = s.bufB := rfl
@[simp] theorem State.withStatus_bufOut (s : State) (c : BitVec 8) : (s.withStatus c).bufOut = s.bufOut := rfl
@[simp] theorem State.withStatus_events (s : State) (c : BitVec 8) : (s.withStatus c).events = s.events := rfl
@[simp] theorem State.withStatus_cmdPending (s : State) (c : BitVec 8) :
    (s.withStatus c).cmdPending = s.cmdPending := rfl
@[simp] theorem State.withStatus_answers (s : State) (c : BitVec 8) : (s.withStatus c).answers = s.answers := rfl
@[simp] theorem State.withStatus_sendCount (s : State) (c : BitVec 8) :
    (s.withStatus c).sendCount = s.sendCount := rfl
@[simp] theorem State.withStatus_env (s : State) (c : BitVec 8) : (s.withStatus c).env = s.env := rfl

/-! ### `State.afterSend` -/

@[simp] theorem State.afterSend_params (s : State) (f : List Byte) : (s.afterSend f).params = s.params := rfl
@[simp] theorem State.afterSend_ident (s : State) (f : List Byte) : (s.afterSend f).ident = s.ident := rfl
@[simp] theorem State.afterSend_ctrl (s : State) (f : List Byte) : (s.afterSend f).ctrl = s.ctrl := rfl
@[simp] theorem State.afterSend_arp (s : State) (f : List Byte) : (s.afterSend f).arp = s.arp := rfl
@[simp] theorem State.afterSend_rq (s : State) (f : List Byte) : (s.afterSend f).rq = s.rq := rfl
@[simp] theorem State.afterSend_pmap (s : State) (f : List Byte) : (s.afterSend f).pmap = s.pmap := rfl
@[simp] theorem State.afterSend_dhcp (s : State) (f : List Byte) : (s.afterSend f).dhcp = s.dhcp := rfl
@[simp] theorem State.afterSend_stats (s : State) (f : List Byte) :
    (s.afterSend f).stats = { s.stats with
      txFail := if s.answerAt 0 = .err then s.stats.txFail + 1#32 else s.stats.txFail } := rfl
@[simp] theorem State.afterSend_port (s : State) (f : List Byte) : (s.afterSend f).port = s.port := rfl
@[simp] theorem State.afterSend_bufA (s : State) (f : List Byte) : (s.afterSend f).bufA = s.bufA := rfl
@[simp] theorem State.afterSend_bufB (s : State) (f : List Byte) : (s.afterSend f).bufB = s.bufB := rfl
@[simp] theorem State.afterSend_bufOut (s : State) (f : List Byte) : (s.afterSend f).bufOut = s.bufOut := rfl
@[simp] theorem State.afterSend_events (s : State) (f : List Byte) :
    (s.afterSend f).events = s.events ++ [.send f] := rfl
@[simp] theorem State.afterSend_cmdPending (s : State) (f : List Byte) :
    (s.afterSend f).cmdPending = s.cmdPending := rfl
@[simp] theorem State.afterSend_answers (s : State) (f : List Byte) :
    (s.afterSend f).answers = s.answers.tail := rfl
@[simp] theorem State.afterSend_sendCount (s : State) (f : List Byte) :
    (s.afterSend f).sendCount = s.sendCount + 1 := rfl
@[simp] theorem State.afterSend_env (s : State) (f : List Byte) : (s.afterSend f).env = s.env := rfl

end Sys2Proof.Machine
end

