-- ==== Sys2Proof/Laws/Memory.lean ====
section
/-!
SUPPORT. The buffers keep their canonical form under every operation, and one byte written reads back
(spec/10_state.md R48).
-/

namespace Sys2Proof.Machine

/-- A write adds no entry but the one at its address. -/
theorem Memory.mem_write {m : Memory} {a : Nat} {b : Byte} {c : Host.Cell} (h : c ∈ m.write a b) :
    c ∈ m ∨ c = (a, b) := by
  induction m with
  | nil =>
    simp only [Memory.write] at h
    split at h <;> simp_all
  | cons d m ih =>
    obtain ⟨k, x⟩ := d
    simp only [Memory.write] at h
    split at h
    · split at h <;> simp_all
      tauto
    · split at h
      · split at h <;> simp_all
        tauto
      · simp only [List.mem_cons] at h ⊢
        obtain rfl | h := h
        · exact .inl (.inl rfl)
        · exact (ih h).imp .inr id

/-- Writing one byte keeps the canonical form. -/
theorem Memory.write_wf {m : Memory} (h : m.wf) (a : Nat) (b : Byte) : (m.write a b).wf := by
  induction m with
  | nil =>
    simp only [Memory.write]
    split <;> simp_all [Memory.wf]
  | cons d m ih =>
    obtain ⟨k, x⟩ := d
    obtain ⟨h1, h2⟩ := h
    rw [List.pairwise_cons] at h1
    have ht : Memory.wf m := ⟨h1.2, fun c hc => h2 c (by simp [hc])⟩
    have hk : ∀ c ∈ m, k < c.1 := h1.1
    have hx : x ≠ Memory.unlisted := h2 (k, x) (by simp)
    simp only [Memory.write]
    split
    · rename_i hlt
      split
      · exact ⟨List.pairwise_cons.2 h1, h2⟩
      · rename_i hb
        refine ⟨List.pairwise_cons.2 ⟨?_, List.pairwise_cons.2 h1⟩, ?_⟩
        · intro c hc
          obtain rfl | hc := List.mem_cons.1 hc
          · exact hlt
          · exact Nat.lt_trans hlt (hk c hc)
        · intro c hc
          obtain rfl | hc := List.mem_cons.1 hc
          · exact hb
          · exact h2 c hc
    · split
      · rename_i _ heq
        split
        · exact ht
        · rename_i hb
          refine ⟨List.pairwise_cons.2 ⟨fun c hc => heq ▸ hk c hc, h1.2⟩, ?_⟩
          intro c hc
          obtain rfl | hc := List.mem_cons.1 hc
          · exact hb
          · exact ht.2 c hc
      · rename_i hn1 hn2
        refine ⟨List.pairwise_cons.2 ⟨?_, (ih ht).1⟩, ?_⟩
        · intro c hc
          obtain hc | rfl := Memory.mem_write hc
          · exact hk c hc
          · show k < a
            omega
        · intro c hc
          obtain rfl | hc := List.mem_cons.1 hc
          · exact hx
          · exact (ih ht).2 c hc

/-- Writing a run of bytes keeps the canonical form. -/
theorem Memory.writeBytes_wf (bs : List Byte) :
    ∀ {m : Memory}, m.wf → ∀ a : Nat, (m.writeBytes a bs).wf := by
  induction bs with
  | nil => exact fun h _ => h
  | cons b bs ih => exact fun h a => ih (Memory.write_wf h a b) (a + 1)

/-- A run of bytes that ends below a bound leaves every entry below it. -/
theorem Memory.writeBytes_below {n : Nat} (bs : List Byte) :
    ∀ {m : Memory} {a : Nat}, (∀ c ∈ m, c.1 < n) → a + bs.length ≤ n → ∀ c ∈ m.writeBytes a bs, c.1 < n := by
  induction bs with
  | nil => exact fun h _ => h
  | cons b bs ih =>
    intro m a h hn
    simp only [List.length_cons] at hn
    refine ih (fun c hc => ?_) (by omega)
    obtain hc | rfl := Memory.mem_write hc
    · exact h c hc
    · show a < n
      omega

/-- Below every entry a buffer reads as unlisted. -/
theorem Memory.read_below {m : Memory} {c : Nat} (h : ∀ d ∈ m, c < d.1) : m.read c = Memory.unlisted := by
  cases m with
  | nil => rfl
  | cons d m =>
    have := h d (by simp)
    simp [Memory.read, Nat.ne_of_lt this, this]

/-- One byte written: it reads back, and every other address reads as before. -/
theorem Memory.read_write {m : Memory} (h : m.wf) (a : Nat) (b : Byte) (c : Nat) :
    (m.write a b).read c = if c = a then b else m.read c := by
  induction m with
  | nil =>
    simp only [Memory.write]
    split <;> rename_i hb
    · split <;> simp [Memory.read, hb]
    · by_cases hc : c = a <;> simp [Memory.read, hc]
  | cons d m ih =>
    obtain ⟨k, x⟩ := d
    obtain ⟨h1, h2⟩ := h
    rw [List.pairwise_cons] at h1
    have ht : Memory.wf m := ⟨h1.2, fun c hc => h2 c (by simp [hc])⟩
    have hk : ∀ d ∈ m, k < d.1 := h1.1
    simp only [Memory.write]
    split
    · rename_i hlt
      split
      · rename_i hb
        split
        · rename_i hc
          subst hc hb
          simp [Memory.read, Nat.ne_of_lt hlt, hlt]
        · rfl
      · simp only [Memory.read]
        split
        · rfl
        · split
          · rename_i h3
            have h4 : c < k := Nat.lt_trans h3 hlt
            simp [Nat.ne_of_lt h4, h4]
          · rfl
    · split
      · rename_i _ heq
        subst heq
        split
        · rename_i hb
          split
          · rename_i hc
            subst hc
            rw [Memory.read_below hk, hb]
          · rename_i hc
            simp only [Memory.read, if_neg hc]
            split
            · exact Memory.read_below fun d hd => Nat.lt_trans (by assumption) (hk d hd)
            · rfl
        · simp only [Memory.read]
          split <;> rfl
      · rename_i hn1 hn2
        simp only [Memory.read, ih ht]
        split
        · rename_i hc
          subst hc
          rw [if_neg (by omega)]
        · split
          · rw [if_neg (by omega)]
          · rfl

/-- `MemRead` answers as many bytes as asked. -/
@[simp] theorem Memory.length_readBytes (n : Nat) : ∀ (m : Memory) (a : Nat), (m.readBytes a n).length = n := by
  induction n with
  | zero => exact fun _ _ => rfl
  | succ n ih => exact fun m a => congrArg (· + 1) (ih m (a + 1))

/-- The buffers of the machine after reset are in canonical form. -/
theorem State.reset_buffers_wf :
    State.reset.bufA.wf ∧ State.reset.bufB.wf ∧ State.reset.bufOut.wf := by decide

end Sys2Proof.Machine
end

