-- ==== Sys2Proof/Laws/Ops.lean ====
section
/-!
SUPPORT. For each shared operation over the port, the buffers and the events, what it can answer.
-/

namespace Sys2Proof.Machine

/-! ### Gating and the end of a command -/

/-- The end of an operation writes `STATUS` and nothing else. -/
theorem finish_eq (r : State × Status) : finish r = .next (r.1.withStatus r.2.code) := rfl

/-- `raise` is a write of `STATUS`. -/
theorem State.raise_eq (s : State) (st : Status) : s.raise st = s.withStatus st.code := rfl

theorem whenAttached_attached {s : State} {k : Result} (h : s.ctrl.attached = true) : whenAttached s k = k := by
  simp [whenAttached, h]

theorem whenAttached_detached {s : State} {k : Result} (h : s.ctrl.attached = false) :
    whenAttached s k = .next (s.withStatus 5#8) := by
  simp [whenAttached, h, finish_eq, Status.code]

/-- A gated command that answers a next state ran, or was refused with `NOT_ATTACHED`. -/
theorem whenAttached_next {s t : State} {k : Result} (h : whenAttached s k = .next t) :
    (s.ctrl.attached = true ∧ k = .next t) ∨ (s.ctrl.attached = false ∧ t = s.withStatus 5#8) := by
  cases ha : s.ctrl.attached
  · rw [whenAttached_detached ha] at h
    exact .inr ⟨rfl, (Host.Outcome.next.inj h).symm⟩
  · rw [whenAttached_attached ha] at h
    exact .inl ⟨rfl, h⟩

theorem withBufA_fits {s : State} {k : List Byte → Result} (h : s.port.lenA.toNat ≤ s.params.bufCap) :
    withBufA s k = k s.operandA := by
  simp [withBufA, h]

theorem withBufA_long {s : State} {k : List Byte → Result} (h : s.params.bufCap < s.port.lenA.toNat) :
    withBufA s k = .next (s.withStatus 7#8) := by
  simp [withBufA, Nat.not_le.2 h, finish_eq, Status.code]

/-- A command over `BUF_A` that answers a next state ran, or was refused with `ILLEGAL_CMD`. -/
theorem withBufA_next {s t : State} {k : List Byte → Result} (h : withBufA s k = .next t) :
    (s.port.lenA.toNat ≤ s.params.bufCap ∧ k s.operandA = .next t)
      ∨ (s.params.bufCap < s.port.lenA.toNat ∧ t = s.withStatus 7#8) := by
  rcases Nat.lt_or_ge s.params.bufCap s.port.lenA.toNat with hl | hl
  · rw [withBufA_long hl] at h
    exact .inr ⟨hl, (Host.Outcome.next.inj h).symm⟩
  · rw [withBufA_fits hl] at h
    exact .inl ⟨hl, h⟩

theorem withBufB_fits {s : State} {k : List Byte → Result} (h : s.port.lenB.toNat ≤ s.params.bufCap) :
    withBufB s k = k s.operandB := by
  simp [withBufB, h]

theorem withBufB_long {s : State} {k : List Byte → Result} (h : s.params.bufCap < s.port.lenB.toNat) :
    withBufB s k = .next (s.withStatus 7#8) := by
  simp [withBufB, Nat.not_le.2 h, finish_eq, Status.code]

/-- A command over `BUF_B` that answers a next state ran, or was refused with `ILLEGAL_CMD`. -/
theorem withBufB_next {s t : State} {k : List Byte → Result} (h : withBufB s k = .next t) :
    (s.port.lenB.toNat ≤ s.params.bufCap ∧ k s.operandB = .next t)
      ∨ (s.params.bufCap < s.port.lenB.toNat ∧ t = s.withStatus 7#8) := by
  rcases Nat.lt_or_ge s.params.bufCap s.port.lenB.toNat with hl | hl
  · rw [withBufB_long hl] at h
    exact .inr ⟨hl, (Host.Outcome.next.inj h).symm⟩
  · rw [withBufB_fits hl] at h
    exact .inl ⟨hl, h⟩

@[simp] theorem State.length_operandA (s : State) : s.operandA.length = s.port.lenA.toNat := by
  simp [State.operandA]

@[simp] theorem State.length_operandB (s : State) : s.operandB.length = s.port.lenB.toNat := by
  simp [State.operandB]

/-- Without a result packet only `STATUS` is written. -/
theorem storeOut_none (s : State) (st : Status) : storeOut (s, st, none) = .next (s.withStatus st.code) := rfl

/-- A result packet that fits `BUF_OUT` is stored. -/
theorem storeOut_some {s : State} {st : Status} {q : List Byte} (h : q.length ≤ s.params.bufCap) :
    storeOut (s, st, some q) = .next ((s.putOut q).withStatus st.code) := by
  simp [storeOut, h, finish_eq]

/-- Everything the end of a translation that answers a next state can have done. -/
theorem storeOut_next {r : State × Status × Option (List Byte)} {t : State} (h : storeOut r = .next t) :
    (r.2.2 = none ∧ t = r.1.withStatus r.2.1.code)
      ∨ ∃ q, r.2.2 = some q ∧ q.length ≤ r.1.params.bufCap ∧ t = (r.1.putOut q).withStatus r.2.1.code := by
  obtain ⟨s, st, _ | q⟩ := r
  · exact .inl ⟨rfl, (Host.Outcome.next.inj h).symm⟩
  · simp only [storeOut] at h
    split at h
    · exact .inr ⟨q, rfl, by assumption, (Host.Outcome.next.inj h).symm⟩
    · cases h

/-! ### Counters and events -/

/-- One counter goes up by one modulo 2^32; the others stay. -/
theorem Counters.bump_eq (c : Counters) (k : Counter) :
    c.bump k =
      { rqFull := c.rqFull + if k = .rqFull then 1#32 else 0#32,
        rqExpired := c.rqExpired + if k = .rqExpired then 1#32 else 0#32,
        txFail := c.txFail + if k = .txFail then 1#32 else 0#32,
        rxDiscard := c.rxDiscard + if k = .rxDiscard then 1#32 else 0#32,
        dhcpDiscard := c.dhcpDiscard + if k = .dhcpDiscard then 1#32 else 0#32,
        pmapFull := c.pmapFull + if k = .pmapFull then 1#32 else 0#32,
        noRoute := c.noRoute + if k = .noRoute then 1#32 else 0#32,
        arpNospace := c.arpNospace + if k = .arpNospace then 1#32 else 0#32,
        txDiscard := c.txDiscard + if k = .txDiscard then 1#32 else 0#32,
        rfnm := c.rfnm + if k = .rfnm then 1#32 else 0#32 } := by
  cases k <;> simp [Counters.bump]

/-- The next answer is answer 0. -/
theorem State.sendAnswer_eq (s : State) : s.sendAnswer = s.answerAt 0 := by
  simp only [State.sendAnswer, State.answerAt]
  cases s.answers <;> simp

/-- After one `send` the answers move up by one. -/
@[simp] theorem State.answerAt_afterSend (s : State) (f : List Byte) (j : Nat) :
    (s.afterSend f).answerAt j = s.answerAt (j + 1) := by
  simp only [State.answerAt, State.afterSend]
  cases s.answers <;> simp [Nat.add_assoc, Nat.add_comm 1 j]

/-- Everything one `emit send(F)` can do: the event, the answer consumed, the failure counted, the status. -/
theorem State.sendFrame_eq (s : State) (f : List Byte) :
    s.sendFrame f = (s.afterSend f, if s.answerAt 0 = .err then .txFail else .ok) := by
  simp only [State.sendFrame, State.sendAnswer_eq]
  cases h : s.answerAt 0 <;> simp [State.afterSend, State.emitSend, State.emit, State.count, Counters.bump, h]

/-- The status code a send leaves. -/
theorem State.sendFrame_code (s : State) (f : List Byte) : (s.sendFrame f).2.code = s.sendCode 0#8 := by
  rw [State.sendFrame_eq]
  simp only [State.sendCode]
  split <;> rfl

theorem State.sendFrame_fst (s : State) (f : List Byte) : (s.sendFrame f).1 = s.afterSend f := by
  rw [State.sendFrame_eq]

/-! ### The lowest index -/

/-- A search from the front answers the lowest index. -/
theorem findIdx?_eq_some_iff_lowest {α : Type} (l : List α) (p : α → Bool) (i : Nat) :
    l.findIdx? p = some i ↔ LowestIndex l (fun e => p e = true) i := by
  rw [List.findIdx?_eq_some_iff_getElem]
  constructor
  · rintro ⟨h, hp, hlt⟩
    refine ⟨⟨l[i], by simp [h], hp⟩, fun j e hj he => ?_⟩
    obtain ⟨hj', rfl⟩ := List.getElem?_eq_some_iff.1 he
    simpa using hlt j hj
  · rintro ⟨⟨e, he, hp⟩, hlt⟩
    obtain ⟨h, rfl⟩ := List.getElem?_eq_some_iff.1 he
    refine ⟨h, hp, fun j hj => ?_⟩
    simpa using hlt j l[j] hj (by simp)

/-- A search from the front fails where no entry matches. -/
theorem findIdx?_eq_none_iff_all {α : Type} (l : List α) (p : α → Bool) :
    l.findIdx? p = none ↔ ∀ e ∈ l, p e = false := by
  simp

/-! ### The environment -/

/-- Everything a step with no command pending can do: wait, or one action of the environment. -/
theorem step_idle {s : State} (h : s.cmdPending = false) : step s = envStep s := by
  simp [step, h]

/-- A step with a command pending runs it, or answers `ILLEGAL_CMD` for a reserved opcode. -/
theorem step_pending {s : State} (h : s.cmdPending = true) :
    (∃ i, decode [s.port.cmd] = .ok i ∧ step s = exec i s.accept)
      ∨ ((∀ i, decode [s.port.cmd] ≠ .ok i) ∧ step s = .next (s.accept.withStatus 7#8)) := by
  simp only [step, h, if_true, State.fetched]
  cases hd : decode [s.port.cmd] with
  | ok i => exact .inl ⟨i, rfl, rfl⟩
  | error e => exact .inr ⟨by simp, rfl⟩

/-- What the environment's step changes: input registers, input buffers, answers, the pending command, and its own
list. -/
theorem envStep_next {s t : State} (h : envStep s = .next t) :
    t = { s with port := { s.port with cmd := t.port.cmd, opIp := t.port.opIp, opMac := t.port.opMac,
                                       opAge := t.port.opAge, opCsum := t.port.opCsum, opReg := t.port.opReg,
                                       opVal := t.port.opVal, xidIn := t.port.xidIn, lenA := t.port.lenA,
                                       lenB := t.port.lenB },
                 bufA := t.bufA, bufB := t.bufB, cmdPending := t.cmdPending, answers := t.answers, env := t.env }
      ∧ (t.bufA = s.bufA ∨ ∃ a bs, a + bs.length ≤ s.params.bufCap ∧ t.bufA = s.bufA.writeBytes a bs)
      ∧ (t.bufB = s.bufB ∨ ∃ a bs, a + bs.length ≤ s.params.bufCap ∧ t.bufB = s.bufB.writeBytes a bs) := by
  simp only [envStep] at h
  split at h
  · cases h
    exact ⟨rfl, .inl rfl, .inl rfl⟩
  · rename_i a rest _
    cases a <;> simp only [envAct, envBuffer] at h
    case bufA addr bytes _ =>
      split at h
      · cases h
        exact ⟨rfl, .inr ⟨addr, bytes, by assumption, rfl⟩, .inl rfl⟩
      · cases h
    case bufB addr bytes _ =>
      split at h
      · cases h
        exact ⟨rfl, .inl rfl, .inr ⟨addr, bytes, by assumption, rfl⟩⟩
      · cases h
    all_goals
      cases h
      exact ⟨rfl, .inl rfl, .inl rfl⟩

end Sys2Proof.Machine
end

