-- ==== Sys2Proof/Laws/Bytes.lean ====
section
/-!
SUPPORT. Lengths of the byte sequences the engine builds, and fields written that read back (spec/00_scope.md R9, R10;
30_encoding.md R89 to R97).
-/

namespace Sys2Proof.Machine

/-! ### Lengths -/

@[simp] theorem length_bytes16 (v : BitVec 16) : (bytes16 v).length = 2 := rfl
@[simp] theorem length_bytes32 (v : BitVec 32) : (bytes32 v).length = 4 := rfl
@[simp] theorem length_bytes48 (v : BitVec 48) : (bytes48 v).length = 6 := rfl
@[simp] theorem length_zeros (n : Nat) : (zeros n).length = n := by simp [zeros]
@[simp] theorem length_put16 (b : List Byte) (i : Nat) (v : BitVec 16) : (put16 b i v).length = b.length := by
  simp [put16]
@[simp] theorem length_put32 (b : List Byte) (i : Nat) (v : BitVec 32) : (put32 b i v).length = b.length := by
  simp [put32]
@[simp] theorem length_slice (b : List Byte) (i j : Nat) : (slice b i j).length = min (j - i) (b.length - i) := by
  simp [slice]
@[simp] theorem length_arpBody (o : BitVec 16) (sha : MacAddr) (spa : IpAddr) (tha : MacAddr) (tpa : IpAddr) :
    (arpBody o sha spa tha tpa).length = 28 := rfl

/-- A frame is as long as its payload and header, and no shorter than `ETH_MIN_PACKET`. -/
@[simp] theorem length_ethFrame (p : Params) (dst src : MacAddr) (t : BitVec 16) (b : List Byte) :
    (ethFrame p dst src t b).length = max (14 + b.length) p.ethMinPacket := by
  simp [ethFrame]
  omega

/-! ### Single bytes -/

theorem byteAt_append_left {a b : List Byte} {i : Nat} (h : i < a.length) : byteAt (a ++ b) i = byteAt a i := by
  simp [byteAt, List.getD_eq_getElem?_getD, List.getElem?_append_left h]

theorem byteAt_append_right {a b : List Byte} {i : Nat} (h : a.length ≤ i) :
    byteAt (a ++ b) i = byteAt b (i - a.length) := by
  simp [byteAt, List.getD_eq_getElem?_getD, List.getElem?_append_right h]

theorem byteAt_drop (b : List Byte) (n i : Nat) : byteAt (b.drop n) i = byteAt b (n + i) := by
  simp [byteAt, List.getD_eq_getElem?_getD]

theorem byteAt_take {b : List Byte} {n i : Nat} (h : i < n) : byteAt (b.take n) i = byteAt b i := by
  simp [byteAt, List.getD_eq_getElem?_getD, h]

theorem byteAt_slice {b : List Byte} {i j k : Nat} (h : k < j - i) : byteAt (slice b i j) k = byteAt b (i + k) := by
  rw [slice, byteAt_take h, byteAt_drop]

theorem byteAt_of_le {b : List Byte} {i : Nat} (h : b.length ≤ i) : byteAt b i = 0#8 := by
  simp [byteAt, List.getD_eq_getElem?_getD, List.getElem?_eq_none h]

theorem byteAt_set (b : List Byte) (i : Nat) (v : Byte) (j : Nat) :
    byteAt (b.set i v) j = if i = j ∧ j < b.length then v else byteAt b j := by
  simp only [byteAt, List.getD_eq_getElem?_getD, List.getElem?_set]
  by_cases h : i = j
  · subst h
    by_cases h2 : i < b.length <;> simp [h2]
  · simp [h]

/-! ### Fields -/

theorem be16_append_left {a b : List Byte} {i : Nat} (h : i + 2 ≤ a.length) : be16 (a ++ b) i = be16 a i := by
  simp only [be16]
  rw [byteAt_append_left (by omega), byteAt_append_left (by omega)]

theorem be16_append_right {a b : List Byte} {i : Nat} (h : a.length ≤ i) :
    be16 (a ++ b) i = be16 b (i - a.length) := by
  simp only [be16]
  rw [byteAt_append_right h, byteAt_append_right (by omega), Nat.sub_add_comm h]

theorem be16_drop (b : List Byte) (n i : Nat) : be16 (b.drop n) i = be16 b (n + i) := by
  simp only [be16, byteAt_drop, Nat.add_assoc]

theorem be16_take {b : List Byte} {n i : Nat} (h : i + 2 ≤ n) : be16 (b.take n) i = be16 b i := by
  simp only [be16]
  rw [byteAt_take (by omega), byteAt_take (by omega)]

theorem be32_append_left {a b : List Byte} {i : Nat} (h : i + 4 ≤ a.length) : be32 (a ++ b) i = be32 a i := by
  simp only [be32]
  rw [be16_append_left (by omega), be16_append_left (by omega)]

theorem be32_append_right {a b : List Byte} {i : Nat} (h : a.length ≤ i) :
    be32 (a ++ b) i = be32 b (i - a.length) := by
  simp only [be32]
  rw [be16_append_right h, be16_append_right (by omega), Nat.sub_add_comm h]

theorem be32_drop (b : List Byte) (n i : Nat) : be32 (b.drop n) i = be32 b (n + i) := by
  simp only [be32, be16_drop, Nat.add_assoc]

theorem be32_take {b : List Byte} {n i : Nat} (h : i + 4 ≤ n) : be32 (b.take n) i = be32 b i := by
  simp only [be32]
  rw [be16_take (by omega), be16_take (by omega)]

theorem be48_drop (b : List Byte) (n i : Nat) : be48 (b.drop n) i = be48 b (n + i) := by
  simp only [be48, be16_drop, be32_drop, Nat.add_assoc]

/-- A field built and read back. -/
@[simp] theorem be16_bytes16 (v : BitVec 16) (l : List Byte) : be16 (bytes16 v ++ l) 0 = v := by
  have h : be16 (bytes16 v ++ l) 0 = v.extractLsb' 8 8 ++ v.extractLsb' 0 8 := rfl
  rw [h]
  apply BitVec.eq_of_getLsbD_eq
  intro i hi
  simp only [BitVec.getLsbD_append, BitVec.getLsbD_extractLsb']
  by_cases h8 : i < 8 <;> simp [h8]
  rw [show 8 + (i - 8) = i by omega]
  simp
  omega

/-- A 32-bit field built and read back. -/
@[simp] theorem be32_bytes32 (v : BitVec 32) (l : List Byte) : be32 (bytes32 v ++ l) 0 = v := by
  have h : be32 (bytes32 v ++ l) 0
      = be16 (bytes16 (v.extractLsb' 16 16) ++ (bytes16 (v.extractLsb' 0 16) ++ l)) 0
        ++ be16 (bytes16 (v.extractLsb' 0 16) ++ l) 0 := rfl
  rw [h, be16_bytes16, be16_bytes16]
  apply BitVec.eq_of_getLsbD_eq
  intro i hi
  simp only [BitVec.getLsbD_append, BitVec.getLsbD_extractLsb']
  by_cases h8 : i < 16 <;> simp [h8]
  rw [show 16 + (i - 16) = i by omega]
  simp
  omega

/-- A link address built and read back. -/
@[simp] theorem be48_bytes48 (v : BitVec 48) (l : List Byte) : be48 (bytes48 v ++ l) 0 = v := by
  have h : be48 (bytes48 v ++ l) 0
      = be16 (bytes16 (v.extractLsb' 32 16) ++ (bytes32 (v.extractLsb' 0 32) ++ l)) 0
        ++ be32 (bytes32 (v.extractLsb' 0 32) ++ l) 0 := rfl
  rw [h, be16_bytes16, be32_bytes32]
  apply BitVec.eq_of_getLsbD_eq
  intro i hi
  simp only [BitVec.getLsbD_append, BitVec.getLsbD_extractLsb']
  by_cases h8 : i < 32 <;> simp [h8]
  rw [show 32 + (i - 32) = i by omega]
  simp
  omega

/-- A field overwritten reads back. -/
theorem be16_put16 {b : List Byte} {i : Nat} (h : i + 2 ≤ b.length) (v : BitVec 16) : be16 (put16 b i v) i = v := by
  have h0 : byteAt (put16 b i v) i = v.extractLsb' 8 8 := by
    rw [put16, byteAt_set, if_neg (by omega), byteAt_set, if_pos ⟨rfl, by omega⟩]
  have h1 : byteAt (put16 b i v) (i + 1) = v.extractLsb' 0 8 := by
    rw [put16, byteAt_set, if_pos ⟨rfl, by simpa using by omega⟩]
  have := be16_bytes16 v []
  rw [be16, h0, h1]
  exact this

/-- A byte outside an overwritten field reads as before. -/
theorem byteAt_put16_of_ne {b : List Byte} {i j : Nat} (h : j < i ∨ i + 2 ≤ j) (v : BitVec 16) :
    byteAt (put16 b i v) j = byteAt b j := by
  rw [put16, byteAt_set, if_neg (by omega), byteAt_set, if_neg (by omega)]

/-- A 16-bit field apart from an overwritten one reads as before. -/
theorem be16_put16_of_ne {b : List Byte} {i j : Nat} (h : j + 2 ≤ i ∨ i + 2 ≤ j) (v : BitVec 16) :
    be16 (put16 b i v) j = be16 b j := by
  rw [be16, byteAt_put16_of_ne (by omega), byteAt_put16_of_ne (by omega), be16]

/-- A 32-bit field apart from an overwritten one reads as before. -/
theorem be32_put16_of_ne {b : List Byte} {i j : Nat} (h : j + 4 ≤ i ∨ i + 2 ≤ j) (v : BitVec 16) :
    be32 (put16 b i v) j = be32 b j := by
  rw [be32, be16_put16_of_ne (by omega), be16_put16_of_ne (by omega), be32]

/-- A 32-bit field overwritten reads back. -/
theorem be32_put32 {b : List Byte} {i : Nat} (h : i + 4 ≤ b.length) (v : BitVec 32) : be32 (put32 b i v) i = v := by
  rw [be32, put32, be16_put16_of_ne (by omega), be16_put16 (by omega), be16_put16 (by simp; omega)]
  have h2 := be32_bytes32 v []
  rw [be32] at h2
  have e1 : be16 (bytes32 v ++ []) 0 = v.extractLsb' 16 16 := be16_bytes16 _ _
  have e2 : be16 (bytes32 v ++ []) (0 + 2) = v.extractLsb' 0 16 := be16_bytes16 (v.extractLsb' 0 16) []
  rw [← e1, ← e2]
  exact h2

/-- A 16-bit field apart from an overwritten 32-bit one reads as before. -/
theorem be16_put32_of_ne {b : List Byte} {i j : Nat} (h : j + 2 ≤ i ∨ i + 4 ≤ j) (v : BitVec 32) :
    be16 (put32 b i v) j = be16 b j := by
  rw [put32, be16_put16_of_ne (by omega), be16_put16_of_ne (by omega)]

/-- A 32-bit field apart from an overwritten one reads as before. -/
theorem be32_put32_of_ne {b : List Byte} {i j : Nat} (h : j + 4 ≤ i ∨ i + 4 ≤ j) (v : BitVec 32) :
    be32 (put32 b i v) j = be32 b j := by
  rw [be32, be16_put32_of_ne (by omega), be16_put32_of_ne (by omega), be32]

/-! ### Decoders -/

/-- Everything a decoded IP header says about its packet (30_encoding.md R93). -/
theorem ipDecode_some {b : List Byte} {h : IpHeader} (hd : ipDecode b = some h) :
    h.hl = ipHeaderLen b ∧ h.tl = (be16 b 2).toNat ∧ 20 ≤ h.hl ∧ h.hl ≤ h.tl ∧ h.tl ≤ b.length
      ∧ h.proto = byteAt b 9 ∧ h.csum = be16 b 10 ∧ h.src = be32 b 12 ∧ h.dst = be32 b 16 := by
  simp only [ipDecode] at hd
  split at hd
  · rename_i hc
    cases hd
    exact ⟨rfl, rfl, hc.2.2.1, hc.2.2.2.2.1, hc.2.2.2.2.2, rfl, rfl, rfl, rfl⟩
  · cases hd

/-- The decoding test and the decoded fields (30_encoding.md R93). -/
theorem ipDecode_eq_some_iff (b : List Byte) (h : IpHeader) :
    ipDecode b = some h
      ↔ (20 ≤ b.length ∧ (byteAt b 0).extractLsb' 4 4 = 4#4 ∧ 20 ≤ ipHeaderLen b ∧ ipHeaderLen b ≤ b.length
          ∧ ipHeaderLen b ≤ (be16 b 2).toNat ∧ (be16 b 2).toNat ≤ b.length)
        ∧ h = ⟨ipHeaderLen b, byteAt b 1, (be16 b 2).toNat, be16 b 4, be16 b 6, byteAt b 8, byteAt b 9, be16 b 10,
            be32 b 12, be32 b 16⟩ := by
  simp only [ipDecode]
  constructor
  · intro hd
    split at hd
    · exact ⟨by assumption, (Option.some.inj hd).symm⟩
    · cases hd
  · rintro ⟨hc, rfl⟩
    rw [if_pos hc]

/-- Cutting a packet to its total length keeps its header. -/
theorem ipDecode_take {b : List Byte} {h : IpHeader} (hd : ipDecode b = some h) :
    ipDecode (b.take h.tl) = some h := by
  obtain ⟨⟨c1, c2, c3, c4, c5, c6⟩, rfl⟩ := (ipDecode_eq_some_iff b h).1 hd
  have ht : 20 ≤ (be16 b 2).toNat := by omega
  have hb : ∀ k, k < 20 → byteAt (b.take (be16 b 2).toNat) k = byteAt b k := fun k hk => byteAt_take (by omega)
  have h16 : ∀ k, k + 2 ≤ 20 → be16 (b.take (be16 b 2).toNat) k = be16 b k := fun k hk => be16_take (by omega)
  have h32 : ∀ k, k + 4 ≤ 20 → be32 (b.take (be16 b 2).toNat) k = be32 b k := fun k hk => be32_take (by omega)
  have hl : (b.take (be16 b 2).toNat).length = (be16 b 2).toNat := by simp; omega
  have hh : ipHeaderLen (b.take (be16 b 2).toNat) = ipHeaderLen b := by
    simp only [ipHeaderLen, hb 0 (by omega)]
  rw [ipDecode_eq_some_iff]
  simp only [hl, hh, hb 0 (by omega), hb 1 (by omega), hb 8 (by omega), hb 9 (by omega), h16 2 (by omega),
    h16 4 (by omega), h16 6 (by omega), h16 10 (by omega), h32 12 (by omega), h32 16 (by omega)]
  exact ⟨⟨ht, c2, c3, c5, c5, Nat.le_refl _⟩, trivial⟩

/-- Everything a decoded TCP header says about its segment (30_encoding.md R94). -/
theorem tcpDecode_some {b : List Byte} {t : TcpHeader} (hd : tcpDecode b = some t) :
    t.hlen = tcpHeaderLen b ∧ 20 ≤ t.hlen ∧ t.hlen ≤ b.length ∧ t.sport = be16 b 0 ∧ t.dport = be16 b 2
      ∧ t.seq = be32 b 4 ∧ t.ack = be32 b 8 ∧ t.flags = byteAt b 13 ∧ t.csum = be16 b 16 := by
  simp only [tcpDecode] at hd
  split at hd
  · rename_i hc
    cases hd
    exact ⟨rfl, hc.2.1, hc.2.2, rfl, rfl, rfl, rfl, rfl, rfl⟩
  · cases hd

/-- A UDP header decodes from eight bytes on (30_encoding.md R95). -/
theorem udpDecode_eq (b : List Byte) :
    udpDecode b = if 8 ≤ b.length then some ⟨be16 b 0, be16 b 2, be16 b 4, be16 b 6⟩ else none := rfl

/-- An ARP frame decodes iff it is well formed, and its fields stand at fixed frame offsets (41_arp_cache.md R154). -/
theorem arpDecode_eq_some_iff (f : List Byte) (a : ArpPacket) :
    arpDecode f = some a ↔ ArpFrameValid f ∧ a = ⟨be16 f 20, be48 f 22, be32 f 28, be32 f 38⟩ := by
  have h16 : ∀ k, k + 2 ≤ 28 → be16 (slice f 14 42) k = be16 f (14 + k) := fun k hk => by
    rw [slice, be16_take (by omega), be16_drop]
  have h32 : ∀ k, k + 4 ≤ 28 → be32 (slice f 14 42) k = be32 f (14 + k) := fun k hk => by
    rw [slice, be32_take (by omega), be32_drop]
  have h48 : be48 (slice f 14 42) 8 = be48 f 22 := by
    rw [be48, h16 8 (by omega), h32 10 (by omega), be48]
  simp only [arpDecode, ArpFrameValid, etherTypeArp, arpHtypeEth, etherTypeIp, h16 0 (by omega), h16 2 (by omega),
    h16 6 (by omega), h32 14 (by omega), h32 24 (by omega), h48,
    byteAt_slice (show 4 < 42 - 14 by omega), byteAt_slice (show 5 < 42 - 14 by omega)]
  constructor
  · intro h
    split at h
    · exact ⟨by assumption, (Option.some.inj h).symm⟩
    · cases h
  · rintro ⟨h, rfl⟩
    rw [if_pos h]

/-- A frame that is no well-formed ARP frame does not decode. -/
theorem arpDecode_eq_none_iff (f : List Byte) : arpDecode f = none ↔ ¬ ArpFrameValid f := by
  constructor
  · intro h hv
    have := (arpDecode_eq_some_iff f _).2 ⟨hv, rfl⟩
    rw [h] at this
    cases this
  · intro h
    cases hd : arpDecode f with
    | none => rfl
    | some a => exact absurd ((arpDecode_eq_some_iff f a).1 hd).1 h

end Sys2Proof.Machine
end

