-- ==== Sys2Proof/Laws/Arp.lean ====
section
/-!
SUPPORT. What the operations on the ARP table can do (spec/41_arp_cache.md R140 to R154).
-/

namespace Sys2Proof.Machine

/-! ### Searching the table -/

theorem arpFind_eq_some_iff (t : List ArpEntry) (ip : IpAddr) (i : Nat) :
    arpFind t ip = some i ↔ ip ≠ 0#32 ∧ LowestIndex t (fun e => e.ip = ip) i := by
  simp only [arpFind]
  by_cases h : ip = 0#32
  · simp [h]
  · rw [if_neg h, findIdx?_eq_some_iff_lowest]
    simp [h]

theorem arpFind_eq_none_iff (t : List ArpEntry) (ip : IpAddr) :
    arpFind t ip = none ↔ ip = 0#32 ∨ ∀ e ∈ t, e.ip ≠ ip := by
  simp only [arpFind]
  by_cases h : ip = 0#32 <;> simp [h]

/-- A hit is the link address of the lowest matching entry. -/
theorem arpLookup_eq_some_iff (s : State) (ip : IpAddr) (m : MacAddr) :
    arpLookup s ip = some m
      ↔ ip ≠ 0#32 ∧ ∃ i e, LowestIndex s.arp (fun e => e.ip = ip) i ∧ s.arp[i]? = some e ∧ e.linkAddr = m := by
  simp only [arpLookup, Option.bind_eq_some_iff, arpFind_eq_some_iff, Option.map_eq_some_iff]
  constructor
  · rintro ⟨i, ⟨h0, hl⟩, e, he, hm⟩
    exact ⟨h0, i, e, hl, he, hm⟩
  · rintro ⟨h0, i, e, hl, he, hm⟩
    exact ⟨i, ⟨h0, hl⟩, e, he, hm⟩

/-- A miss is address 0 or no matching entry. -/
theorem arpLookup_eq_none_iff (s : State) (ip : IpAddr) :
    arpLookup s ip = none ↔ ip = 0#32 ∨ ∀ e ∈ s.arp, e.ip ≠ ip := by
  rw [← arpFind_eq_none_iff, arpLookup]
  cases h : arpFind s.arp ip with
  | none => simp
  | some i =>
    obtain ⟨-, ⟨e, he, -⟩, -⟩ := (arpFind_eq_some_iff _ _ _).1 h
    simp [he]

/-- A lookup reads the ARP table and nothing else. -/
theorem arpLookup_congr {s u : State} (h : s.arp = u.arp) (ip : IpAddr) : arpLookup s ip = arpLookup u ip := by
  simp only [arpLookup, h]

theorem arpFreeSlot_eq_some_iff (t : List ArpEntry) (i : Nat) :
    arpFreeSlot t = some i ↔ LowestIndex t (fun e => e.ip = 0#32) i := by
  rw [arpFreeSlot, findIdx?_eq_some_iff_lowest]
  simp [ArpEntry.isFree]

theorem arpFreeSlot_eq_none_iff (t : List ArpEntry) : arpFreeSlot t = none ↔ ∀ e ∈ t, e.ip ≠ 0#32 := by
  simp [arpFreeSlot, ArpEntry.isFree]

/-- The evicted slot is the lowest index among the non-static entries of largest signed age. -/
theorem arpOldest_eq_some_iff (p : Params) (t : List ArpEntry) (i : Nat) :
    arpOldest p t = some i
      ↔ LowestIndex t (fun e => e.age ≠ p.arpStaticAge
          ∧ ∀ f ∈ t, f.age ≠ p.arpStaticAge → f.age.toInt ≤ e.age.toInt) i := by
  have key : ∀ x : Int, ((t.filter (fun e => e.age != p.arpStaticAge)).map (fun e => e.age.toInt)).max? = some x →
      ∀ e ∈ t, ((e.age != p.arpStaticAge && e.age.toInt == x) = true
        ↔ e.age ≠ p.arpStaticAge ∧ ∀ f ∈ t, f.age ≠ p.arpStaticAge → f.age.toInt ≤ e.age.toInt) := by
    intro x hx e he
    rw [List.max?_eq_some_iff] at hx
    obtain ⟨hmem, hmax⟩ := hx
    simp only [List.mem_map, List.mem_filter, bne_iff_ne, ne_eq] at hmem hmax
    obtain ⟨g, ⟨hg, hgs⟩, rfl⟩ := hmem
    simp only [Bool.and_eq_true, bne_iff_ne, ne_eq, beq_iff_eq]
    constructor
    · rintro ⟨h1, h2⟩
      refine ⟨h1, fun f hf hfs => ?_⟩
      rw [h2]
      exact hmax _ ⟨f, ⟨hf, hfs⟩, rfl⟩
    · rintro ⟨h1, h2⟩
      exact ⟨h1, Int.le_antisymm (hmax _ ⟨e, ⟨he, h1⟩, rfl⟩) (h2 g hg hgs)⟩
  simp only [arpOldest]
  split
  · rename_i hn
    rw [List.max?_eq_none_iff, List.map_eq_nil_iff, List.filter_eq_nil_iff] at hn
    simp only [reduceCtorEq, false_iff]
    rintro ⟨⟨e, he, hs, -⟩, -⟩
    have := hn e (List.mem_of_getElem? he)
    simp [hs] at this
  · rename_i x hx
    rw [findIdx?_eq_some_iff_lowest]
    constructor
    · rintro ⟨⟨e, he, hp⟩, hl⟩
      refine ⟨⟨e, he, (key x hx e (List.mem_of_getElem? he)).1 hp⟩, fun j f hj hf hp' => ?_⟩
      exact hl j f hj hf ((key x hx f (List.mem_of_getElem? hf)).2 hp')
    · rintro ⟨⟨e, he, hp⟩, hl⟩
      refine ⟨⟨e, he, (key x hx e (List.mem_of_getElem? he)).2 hp⟩, fun j f hj hf hp' => ?_⟩
      exact hl j f hj hf ((key x hx f (List.mem_of_getElem? hf)).1 hp')

/-- No slot can be evicted iff every entry has the static age. -/
theorem arpOldest_eq_none_iff (p : Params) (t : List ArpEntry) :
    arpOldest p t = none ↔ ∀ e ∈ t, e.age = p.arpStaticAge := by
  simp only [arpOldest]
  split
  · rename_i hn
    rw [List.max?_eq_none_iff, List.map_eq_nil_iff, List.filter_eq_nil_iff] at hn
    simp only [true_iff]
    intro e he
    simpa using hn e he
  · rename_i x hx
    rw [List.max?_eq_some_iff] at hx
    obtain ⟨hmem, -⟩ := hx
    simp only [List.mem_map, List.mem_filter, bne_iff_ne, ne_eq] at hmem
    obtain ⟨g, ⟨hg, hgs⟩, hgx⟩ := hmem
    constructor
    · intro hf
      rw [findIdx?_eq_none_iff_all] at hf
      have := hf g hg
      simp [hgs, hgx] at this
    · exact fun h => absurd (h g hg) hgs

/-! ### Updating the table -/

/-- Everything an update can do (41_arp_cache.md R146, R147). -/
theorem arpUpdate_cases (s : State) (ip : IpAddr) (m : MacAddr) (a : BitVec 16) :
    (ip = 0#32 ∧ arpUpdate s ip m a = (s, .ok))
      ∨ (∃ i e, ip ≠ 0#32 ∧ LowestIndex s.arp (fun e => e.ip = ip) i ∧ s.arp[i]? = some e
          ∧ arpUpdate s ip m a = ({ s with arp := s.arp.set i (e.refresh s.params m a) }, .ok))
      ∨ (∃ i, ip ≠ 0#32 ∧ (∀ e ∈ s.arp, e.ip ≠ ip) ∧ LowestIndex s.arp (fun e => e.ip = 0#32) i
          ∧ arpUpdate s ip m a = ({ s with arp := s.arp.set i ⟨ip, m, a⟩ }, .ok))
      ∨ (∃ i, ip ≠ 0#32 ∧ (∀ e ∈ s.arp, e.ip ≠ ip ∧ e.ip ≠ 0#32)
          ∧ LowestIndex s.arp (fun e => e.age ≠ s.params.arpStaticAge
              ∧ ∀ f ∈ s.arp, f.age ≠ s.params.arpStaticAge → f.age.toInt ≤ e.age.toInt) i
          ∧ arpUpdate s ip m a = ({ s with arp := s.arp.set i ⟨ip, m, a⟩ }, .ok))
      ∨ (ip ≠ 0#32 ∧ (∀ e ∈ s.arp, e.ip ≠ ip ∧ e.ip ≠ 0#32 ∧ e.age = s.params.arpStaticAge)
          ∧ arpUpdate s ip m a = (s.count .arpNospace, .arpNoslot)) := by
  simp only [arpUpdate]
  by_cases h0 : ip = 0#32
  · exact .inl ⟨h0, by rw [if_pos h0]⟩
  · right
    simp only [if_neg h0]
    cases hf : arpFind s.arp ip with
    | some i =>
      obtain ⟨-, hl⟩ := (arpFind_eq_some_iff _ _ _).1 hf
      obtain ⟨e, he, -⟩ := hl.1
      refine .inl ⟨i, e, h0, hl, he, ?_⟩
      simp only [List.modify_eq_set_getElem?, he]
      rfl
    | none =>
      have hn := ((arpFind_eq_none_iff _ _).1 hf).resolve_left h0
      right
      cases hs : arpFreeSlot s.arp with
      | some i => exact .inl ⟨i, h0, hn, (arpFreeSlot_eq_some_iff _ _).1 hs, rfl⟩
      | none =>
        have hfree := (arpFreeSlot_eq_none_iff _).1 hs
        right
        cases ho : arpOldest s.params s.arp with
        | some i =>
          exact .inl ⟨i, h0, fun e he => ⟨hn e he, hfree e he⟩, (arpOldest_eq_some_iff _ _ _).1 ho, rfl⟩
        | none =>
          have hst := (arpOldest_eq_none_iff _ _).1 ho
          exact .inr ⟨h0, fun e he => ⟨hn e he, hfree e he, hst e he⟩, rfl⟩

/-- An update writes the ARP table and `stat_arp_nospace` and nothing else, and keeps the table's size. -/
theorem arpUpdate_frame (s : State) (ip : IpAddr) (m : MacAddr) (a : BitVec 16) :
    ∃ t n, (arpUpdate s ip m a).1 = { s with arp := t, stats := { s.stats with arpNospace := n } }
      ∧ t.length = s.arp.length := by
  rcases arpUpdate_cases s ip m a with ⟨-, h⟩ | ⟨i, e, -, -, -, h⟩ | ⟨i, -, -, -, h⟩ | ⟨i, -, -, -, h⟩ | ⟨-, -, h⟩
  · exact ⟨s.arp, s.stats.arpNospace, by rw [h], rfl⟩
  · exact ⟨_, s.stats.arpNospace, by rw [h], by simp⟩
  · exact ⟨_, s.stats.arpNospace, by rw [h], by simp⟩
  · exact ⟨_, s.stats.arpNospace, by rw [h], by simp⟩
  · exact ⟨s.arp, s.stats.arpNospace + 1#32, by rw [h]; rfl, rfl⟩

/-- What ageing makes of one entry (41_arp_cache.md R150). -/
theorem ArpEntry.tick_eq (p : Params) (e : ArpEntry) :
    e.tick p = if e.ip ≠ 0#32 ∧ e.age ≠ p.arpStaticAge then
        (if (p.arpMaxAge : Int) < (e.age + 1#16).toInt then ArpEntry.zero else { e with age := e.age + 1#16 })
      else e := by
  simp [ArpEntry.tick, ArpEntry.isDynamic]

/-! ### Frames -/

/-- The request frame, byte for byte. -/
theorem arpRequestFrame_eq (s : State) (ip : IpAddr) : arpRequestFrame s ip = specArpRequest s ip := rfl

/-- Everything an ARP request does. -/
theorem arpSendRequest_eq (s : State) (ip : IpAddr) :
    arpSendRequest s ip = (s.afterSend (specArpRequest s ip), if s.answerAt 0 = .err then .txFail else .ok) := by
  rw [arpSendRequest, State.sendFrame_eq, arpRequestFrame_eq]

end Sys2Proof.Machine
end

