-- ==== Sys2Proof/Laws/Checksum.lean ====
section
/-!
SUPPORT. The arithmetic of the Checksum Engine: the word sum as a weighted byte sum, the folding loop in closed form, and
what one subtraction or addition of `CSADJ` does modulo 0xFFFF (spec/40_checksum.md R120 to R126).
-/

namespace Sys2Proof.Machine

/-- A word of two bytes, first byte most significant. -/
theorem toNat_append_bytes (x y : Byte) : (x ++ y).toNat = 256 * x.toNat + y.toNat := by
  rw [BitVec.toNat_append, ← Nat.shiftLeft_add_eq_or_of_lt y.isLt, Nat.shiftLeft_eq]
  omega

/-- The word sum weighs a byte at an even offset 256, one at an odd offset 1. -/
theorem wordSum_eq_weightedSum (b : List Byte) : wordSum b = weightedSum b := by
  induction b using words.induct with
  | case1 => rfl
  | case2 x =>
    simp only [wordSum, words, List.map_cons, List.map_nil, List.sum_cons, List.sum_nil, weightedSum,
      toNat_append_bytes, BitVec.toNat_ofNat]
    omega
  | case3 x y rest ih =>
    simp only [wordSum] at ih
    simp only [wordSum, words, List.map_cons, List.sum_cons, weightedSum, ih, toNat_append_bytes]

/-- Folding a sum that fits in 16 bits changes nothing, and one round of a larger one keeps the folded value. -/
theorem foldedSum_fold {n : Nat} (h : 0xFFFF < n) : foldedSum (n % 0x10000 + n / 0x10000) = foldedSum n := by
  simp only [foldedSum]
  rw [if_neg (by omega), if_neg (by omega)]
  omega

theorem foldedSum_small {n : Nat} (h : n ≤ 0xFFFF) : foldedSum n = n := by
  simp only [foldedSum]
  split <;> omega

/-- The folding loop in closed form; a sum of rounds equal to the sum is enough. -/
theorem foldCarries_eq : ∀ (fuel n : Nat), n ≤ fuel + 0xFFFF → foldCarries fuel n = foldedSum n := by
  intro fuel
  induction fuel with
  | zero =>
    intro n h
    rw [foldCarries, foldedSum_small (by omega)]
  | succ fuel ih =>
    intro n h
    rw [foldCarries]
    split
    · rename_i h2
      rw [ih _ (by omega), foldedSum_fold h2]
    · rw [foldedSum_small (by omega)]

theorem foldedSum_le (n : Nat) : foldedSum n ≤ 0xFFFF := by
  simp only [foldedSum]
  split <;> omega

/-- The folded sum is congruent to the sum modulo 0xFFFF, and 0 only for 0. -/
theorem foldedSum_mod (n : Nat) : foldedSum n % 0xFFFF = n % 0xFFFF := by
  simp only [foldedSum]
  split <;> omega

theorem foldedSum_eq_zero_iff (n : Nat) : foldedSum n = 0 ↔ n = 0 := by
  simp only [foldedSum]
  split <;> omega

/-- The one's complement of a 16-bit value as a subtraction. -/
theorem not_ofNat16 {n : Nat} (h : n ≤ 0xFFFF) : ~~~ (BitVec.ofNat 16 n) = BitVec.ofNat 16 (0xFFFF - n) := by
  apply BitVec.eq_of_toNat_eq
  rw [BitVec.toNat_not, BitVec.toNat_ofNat, BitVec.toNat_ofNat]
  omega

/-- The checksum in closed form. -/
theorem toNat_checksum (b : List Byte) : (checksum b).toNat = 0xFFFF - foldedSum (weightedSum b) := by
  have hf := foldedSum_le (weightedSum b)
  rw [checksum, foldCarries_eq _ _ (by omega), wordSum_eq_weightedSum, not_ofNat16 hf, BitVec.toNat_ofNat]
  omega

/-- One subtraction keeps the range and subtracts modulo 0xFFFF. -/
theorem csumSub_spec (zb : Bool) {s : Nat} (h : s ≤ 0xFFFF) (w : BitVec 16) :
    csumSub zb s w ≤ 0xFFFF ∧ (csumSub zb s w + w.toNat) % 0xFFFF = s % 0xFFFF := by
  have hw := w.isLt
  simp only [csumSub]
  split <;> rename_i hc
  · rcases hc with hc | ⟨-, hc⟩
    · have e : (((s : Int) - w.toNat - 1) % 0x10000).toNat = s + 0xFFFF - w.toNat := by omega
      rw [e]
      omega
    · have e : (((s : Int) - w.toNat - 1) % 0x10000).toNat = 0xFFFF := by omega
      rw [e]
      omega
  · have e : ((s : Int) - w.toNat).toNat = s - w.toNat := by omega
    rw [e]
    omega

/-- One addition keeps the range and adds modulo 0xFFFF; its value is 0 only for 0 plus 0. -/
theorem csumAdd_spec {s : Nat} (h : s ≤ 0xFFFF) (w : BitVec 16) :
    csumAdd s w ≤ 0xFFFF ∧ csumAdd s w % 0xFFFF = (s + w.toNat) % 0xFFFF
      ∧ (csumAdd s w = 0 ↔ s = 0 ∧ w.toNat = 0) := by
  have hw := w.isLt
  simp only [csumAdd]
  split <;> omega

end Sys2Proof.Machine
end

