-- ==== Sys2Proof/Laws/Dhcp.lean ====
section
/-!
SUPPORT. What the operations of the DHCP client can do (spec/44_dhcp.md R230 to R266).
-/

namespace Sys2Proof.Machine

/-! ### Messages and frames -/

/-- A frame reads the parameters and `own_mac`, beside its arguments. -/
theorem dhFrame_congr {s u : State} (hp : s.params = u.params) (hm : s.ident.ownMac = u.ident.ownMac)
    (dmac : MacAddr) (src dst : IpAddr) (m : List Byte) : dhFrame s dmac src dst m = dhFrame u dmac src dst m := by
  simp only [dhFrame, hp, hm]

/-- A message reads the transaction id, `own_mac` and the message length, beside its arguments. -/
theorem dhMessage_congr {s u : State} (hp : s.params = u.params) (hm : s.ident.ownMac = u.ident.ownMac)
    (hx : s.dhcp.transactionId = u.dhcp.transactionId) (c : IpAddr) (o : List Byte) :
    dhMessage s c o = dhMessage u c o := by
  simp only [dhMessage, hp, hm, hx]

@[simp] theorem length_dhMessage (s : State) (c : IpAddr) (o : List Byte) :
    (dhMessage s c o).length = max (241 + o.length) s.params.dhcpMsgLen := by
  simp [dhMessage, dhcpCookie]
  omega

@[simp] theorem length_dhDatagram (p : Params) (src dst : IpAddr) (m : List Byte) :
    (dhDatagram p src dst m).length = 8 + m.length := by
  simp [dhDatagram]
  omega

@[simp] theorem length_dhIpHeader (p : Params) (src dst : IpAddr) (n : Nat) :
    (dhIpHeader p src dst n).length = 20 := by
  simp [dhIpHeader]

@[simp] theorem length_dhFrame (s : State) (dmac : MacAddr) (src dst : IpAddr) (m : List Byte) :
    (dhFrame s dmac src dst m).length = max (42 + m.length) s.params.ethMinPacket := by
  simp [dhFrame]
  omega

theorem length_dhOptions_le (d : Dhcp) (k : DhMessage) : (dhOptions d k).length ≤ 19 := by
  cases k <;> simp [dhOptions]

/-- Sending a message: not sent where a link address is missing, else one frame. -/
theorem dhSend_eq (s : State) (k : DhMessage) :
    dhSend s k = match dhMessageFrame s k with
      | none => (s, .ok)
      | some f => (s.afterSend f, if s.answerAt 0 = .err then .txFail else .ok) := by
  simp only [dhSend]
  cases dhMessageFrame s k with
  | none => rfl
  | some f => exact State.sendFrame_eq s f

/-- Every frame of a message is one `dhFrame` of one `dhMessage`. -/
theorem dhMessageFrame_form {s : State} {k : DhMessage} {f : List Byte} (h : dhMessageFrame s k = some f) :
    ∃ m src dst c, f = dhFrame s m src dst (dhMessage s c (dhOptions s.dhcp k)) := by
  cases k <;> simp only [dhMessageFrame, Option.some.injEq, Option.map_eq_some_iff] at h
  · exact ⟨_, _, _, _, h.symm⟩
  · exact ⟨_, _, _, _, h.symm⟩
  · obtain ⟨m, -, h⟩ := h
    exact ⟨_, _, _, _, h.symm⟩
  · exact ⟨_, _, _, _, h.symm⟩
  · obtain ⟨m, -, h⟩ := h
    exact ⟨_, _, _, _, h.symm⟩

/-! ### What an event of the state machine leaves -/

/-- The outputs of a DHCP event: none, or one frame sent on a state `u` with the event's registers written. -/
def DhSends (s u : State) : Prop :=
  (u.events = s.events ∧ u.answers = s.answers ∧ u.sendCount = s.sendCount ∧ u.stats.txFail = s.stats.txFail)
    ∨ ∃ f, u.events = s.events ++ [.send f] ∧ u.answers = s.answers.tail ∧ u.sendCount = s.sendCount + 1
        ∧ u.stats.txFail = (s.afterSend f).stats.txFail
        ∧ s.params.ethMinPacket ≤ f.length ∧ f.length ≤ max (max 302 (42 + s.params.dhcpMsgLen)) s.params.ethMinPacket

/-- A DHCP event writes the three address registers, the DHCP registers, the ARP table (one update), counters and
events; the link address, the external address, `CTRL`, the queue, the port map, the port and the buffers stay. -/
def DhFrameOf (s u : State) : Prop :=
  u = { s with
        ident := { s.ident with
          ownIp := u.ident.ownIp, ownMask := u.ident.ownMask, gatewayIp := u.ident.gatewayIp },
        dhcp := u.dhcp, arp := u.arp,
        stats := { s.stats with
          txFail := u.stats.txFail, dhcpDiscard := u.stats.dhcpDiscard, arpNospace := u.stats.arpNospace },
        events := u.events, answers := u.answers, sendCount := u.sendCount }

theorem DhFrameOf.trans {s u v : State} (h1 : DhFrameOf s u) (h2 : DhFrameOf u v) : DhFrameOf s v := by
  unfold DhFrameOf at *
  rw [h1] at h2
  exact h2

theorem DhFrameOf.refl (s : State) : DhFrameOf s s := rfl

theorem afterSend_dhFrameOf (s : State) (f : List Byte) : DhFrameOf s (s.afterSend f) := rfl

/-- Sending a message writes no register. -/
theorem dhSend_frame (s : State) (k : DhMessage) :
    DhFrameOf s (dhSend s k).1 ∧ (dhSend s k).1.ident = s.ident ∧ (dhSend s k).1.dhcp = s.dhcp
      ∧ (dhSend s k).1.arp = s.arp ∧ DhSends s (dhSend s k).1 := by
  rw [dhSend_eq]
  split
  · exact ⟨.refl s, rfl, rfl, rfl, .inl ⟨rfl, rfl, rfl, rfl⟩⟩
  · rename_i f hf
    refine ⟨afterSend_dhFrameOf s f, rfl, rfl, rfl, .inr ⟨f, rfl, rfl, rfl, rfl, ?_⟩⟩
    obtain ⟨m, src, dst, c, rfl⟩ := dhMessageFrame_form hf
    have := length_dhOptions_le s.dhcp k
    simp only [length_dhFrame, length_dhMessage]
    omega

/-- The statuses a DHCP send can leave. -/
theorem dhSend_status (s : State) (k : DhMessage) : (dhSend s k).2 = .ok ∨ (dhSend s k).2 = .txFail := by
  rw [dhSend_eq]
  repeat' split
  all_goals simp

/-- The outputs of an event are those of a send in its middle. -/
theorem DhSends.of_eq {s s' u u' : State} (h : DhSends s u) (h1 : s'.events = s.events) (h2 : s'.answers = s.answers)
    (h3 : s'.sendCount = s.sendCount) (h4 : s'.stats.txFail = s.stats.txFail) (h5 : s'.params = s.params)
    (g1 : u'.events = u.events) (g2 : u'.answers = u.answers) (g3 : u'.sendCount = u.sendCount)
    (g4 : u'.stats.txFail = u.stats.txFail) : DhSends s' u' := by
  have hA : s'.answerAt 0 = s.answerAt 0 := by simp only [State.answerAt, h2, h3]
  rcases h with ⟨a, b, c, d⟩ | ⟨f, a, b, c, d, e⟩
  · exact .inl ⟨by rw [g1, a, h1], by rw [g2, b, h2], by rw [g3, c, h3], by rw [g4, d, h4]⟩
  · refine .inr ⟨f, by rw [g1, a, h1], by rw [g2, b, h2], by rw [g3, c, h3], ?_, by rw [h5]; exact e⟩
    rw [g4, d]
    simp only [State.afterSend_stats, hA, h4]

/-- The DHCP registers change no answer. -/
theorem DhSends.refl (s : State) : DhSends s s := .inl ⟨rfl, rfl, rfl, rfl⟩

/-- Everything a retransmission can do (44_dhcp.md R252, R256). -/
theorem dhRetry_cases (s : State) (k : DhMessage) :
    (1 < s.dhcp.retryWait.toNat
        ∧ dhRetry s k = (s.setDhcp { s.dhcp with retryWait := s.dhcp.retryWait - 1#16 }, .ok))
      ∨ (s.dhcp.retryWait.toNat ≤ 1 ∧ ∃ r, r = dhSend (s.setDhcp { s.dhcp with retryWait := 0#16 }) k
          ∧ dhRetry s k = (r.1.setDhcp { s.dhcp with
              retryBackoff := dhNextBackoff s.params s.dhcp.retryBackoff,
              retryWait := dhNextBackoff s.params s.dhcp.retryBackoff }, r.2)) := by
  have hw := s.dhcp.retryWait.isLt
  by_cases h : s.dhcp.retryWait.toNat ≤ 1
  · right
    have hd : down s.dhcp.retryWait = 0#16 := by
      rcases Nat.le_one_iff_eq_zero_or_eq_one.1 h with h | h
      · have : s.dhcp.retryWait = 0#16 := BitVec.eq_of_toNat_eq h
        rw [this]
        rfl
      · have : s.dhcp.retryWait = 1#16 := BitVec.eq_of_toNat_eq h
        rw [this]
        rfl
    refine ⟨h, _, rfl, ?_⟩
    obtain ⟨hf, -, hdh, -, -⟩ := dhSend_frame (s.setDhcp { s.dhcp with retryWait := 0#16 }) k
    have hp : (dhSend (s.setDhcp { s.dhcp with retryWait := 0#16 }) k).1.params = s.params := by
      rw [hf]
      rfl
    simp only [dhRetry, hd]
    rw [if_neg (by simp)]
    simp only [hdh, hp, State.setDhcp_dhcp]
  · left
    have h0 : s.dhcp.retryWait ≠ 0 := by
      intro h0
      rw [h0] at h
      simp at h
    have hd : down s.dhcp.retryWait = s.dhcp.retryWait - 1#16 := by rw [down, if_neg h0]; rfl
    refine ⟨by omega, ?_⟩
    simp only [dhRetry, hd]
    rw [if_pos]
    simp only [State.setDhcp_dhcp]
    intro hc
    have := congrArg BitVec.toNat hc
    rw [BitVec.toNat_sub] at this
    simp at this
    omega

/-- The tick event: what it writes, and at most one frame. -/
theorem dhTick_frame (s : State) :
    DhFrameOf s (dhTick s).1 ∧ (dhTick s).1.arp = s.arp ∧ DhSends s (dhTick s).1 := by
  have retry : ∀ k, DhFrameOf s (dhRetry s k).1 ∧ (dhRetry s k).1.arp = s.arp ∧ DhSends s (dhRetry s k).1 := by
    intro k
    rcases dhRetry_cases s k with ⟨-, h⟩ | ⟨-, r, hr, h⟩
    · rw [h]
      exact ⟨rfl, rfl, .inl ⟨rfl, rfl, rfl, rfl⟩⟩
    · rw [h, hr]
      obtain ⟨h1, -, -, h3, h4⟩ := dhSend_frame (s.setDhcp { s.dhcp with retryWait := 0#16 }) k
      refine ⟨DhFrameOf.trans (u := s.setDhcp _) rfl (h1.trans rfl), h3, h4.of_eq rfl rfl rfl rfl rfl rfl rfl rfl rfl⟩
  have off : DhFrameOf s (dhTickOff s).1 ∧ (dhTickOff s).1.arp = s.arp ∧ DhSends s (dhTickOff s).1 := by
    simp only [dhTickOff]
    split
    · simp only [dhStart]
      obtain ⟨h1, -, -, h3, h4⟩ := dhSend_frame
        (s.setDhcp { s.dhcp with transactionId := s.port.xidIn, state := .selecting }) .discover
      exact ⟨DhFrameOf.trans (u := s.setDhcp _) rfl (h1.trans rfl), h3,
        h4.of_eq rfl rfl rfl rfl rfl rfl rfl rfl rfl⟩
    · exact ⟨rfl, rfl, .refl s⟩
  have bound : DhFrameOf s (dhTickBound s).1 ∧ (dhTickBound s).1.arp = s.arp ∧ DhSends s (dhTickBound s).1 := by
    simp only [dhTickBound]
    split
    · exact ⟨rfl, rfl, .inl ⟨rfl, rfl, rfl, rfl⟩⟩
    · split
      · simp only [dhRenew]
        obtain ⟨h1, -, -, h3, h4⟩ := dhSend_frame
          ((dhCountDown s).setDhcp { (dhCountDown s).dhcp with state := .renewing }) .requestRenewing
        exact ⟨DhFrameOf.trans (u := (dhCountDown s).setDhcp _) rfl h1, h3,
          h4.of_eq rfl rfl rfl rfl rfl rfl rfl rfl rfl⟩
      · split
        · simp only [dhRebind]
          obtain ⟨h1, -, -, h3, h4⟩ := dhSend_frame
            ((dhCountDown s).setDhcp { (dhCountDown s).dhcp with state := .rebinding }) .requestRebinding
          exact ⟨DhFrameOf.trans (u := (dhCountDown s).setDhcp _) rfl h1, h3,
            h4.of_eq rfl rfl rfl rfl rfl rfl rfl rfl rfl⟩
        · exact ⟨rfl, rfl, .inl ⟨rfl, rfl, rfl, rfl⟩⟩
  simp only [dhTick]
  cases s.dhcp.state
  · exact off
  · exact retry _
  · exact retry _
  · exact bound
  · exact bound
  · exact bound
  · exact off
  · exact off

/-! ### Receiving -/

/-- The common tests read the parameters, `own_mac` and the transaction id, beside the frame. -/
theorem dhValidate_congr {s u : State} (hp : s.params = u.params) (hm : s.ident.ownMac = u.ident.ownMac)
    (hx : s.dhcp.transactionId = u.dhcp.transactionId) (f : List Byte) : dhValidate s f = dhValidate u f := by
  simp only [dhValidate, dhCheckUdp, dhCheckMessage, hp, hm, hx]

/-- The gratuitous reply, byte for byte. -/
theorem gratuitousArp_eq (s : State) : gratuitousArp s = specGratuitousArp s := rfl

/-- Everything the receive event can do: one of the transitions of 44_dhcp.md R240, or none. -/
theorem dhReceive_cases (s : State) (f : List Byte) :
    dhReceive s f = (s.count .dhcpDiscard, .discarded) ∨ dhReceive s f = (s, .ok)
      ∨ ∃ r, dhValidate s f = some r
        ∧ ((s.dhcp.state = .selecting ∧ r.msgType = 2#8 ∧ r.yiaddr ≠ 0#32 ∧ dhReceive s f = dhOffer s r)
          ∨ (s.dhcp.state = .requesting ∧ r.msgType = 5#8 ∧ r.yiaddr = s.dhcp.address
              ∧ ∃ l, optWord r.opts 51#8 = some l ∧ dhReceive s f = dhCommit s r l)
          ∨ (s.dhcp.state = .requesting ∧ r.msgType = 6#8 ∧ dhReceive s f = (dhClearToOff s, .ok))
          ∨ ((s.dhcp.state = .renewing ∨ s.dhcp.state = .rebinding) ∧ r.msgType = 5#8 ∧ r.yiaddr = s.dhcp.address
              ∧ ∃ l, optWord r.opts 51#8 = some l ∧ dhReceive s f = dhAckRenew s r l)) := by
  cases hv : dhValidate s f with
  | none => exact .inl (by simp only [dhReceive, hv, dhDiscard])
  | some r =>
    have hr : dhReceive s f = dhDispatch s r := by simp only [dhReceive, hv]
    rw [hr]
    have ack : ∀ k : BitVec 32 → State × Status, dhAckWith s r k = (s.count .dhcpDiscard, .discarded)
        ∨ (r.yiaddr = s.dhcp.address ∧ ∃ l, optWord r.opts 51#8 = some l ∧ dhAckWith s r k = k l) := by
      intro k
      simp only [dhAckWith, dhDiscard]
      split
      · exact .inl rfl
      · rename_i l hl
        split
        · exact .inr ⟨by assumption, l, hl, rfl⟩
        · exact .inl rfl
    generalize hx : dhDispatch s r = x
    have renew : (if r.msgType = dhcpAck then dhAckWith s r (dhAckRenew s r) else (s, .ok)) = x →
        x = (s.count .dhcpDiscard, .discarded) ∨ x = (s, .ok)
          ∨ (r.msgType = 5#8 ∧ r.yiaddr = s.dhcp.address ∧ ∃ l, optWord r.opts 51#8 = some l
              ∧ x = dhAckRenew s r l) := fun h => by
      split at h
      · rename_i ht
        rcases ack (dhAckRenew s r) with h' | ⟨hy, l, hl, h'⟩
        · exact .inl (h ▸ h')
        · exact .inr (.inr ⟨ht, hy, l, hl, h ▸ h'⟩)
      · exact .inr (.inl h.symm)
    cases hs : s.dhcp.state <;> simp only [dhDispatch, hs] at hx
    case renewing =>
      rcases renew hx with h | h | h
      · exact .inl h
      · exact .inr (.inl h)
      · exact .inr (.inr ⟨r, rfl, .inr (.inr (.inr ⟨.inl rfl, h⟩))⟩)
    case rebinding =>
      rcases renew hx with h | h | h
      · exact .inl h
      · exact .inr (.inl h)
      · exact .inr (.inr ⟨r, rfl, .inr (.inr (.inr ⟨.inr rfl, h⟩))⟩)
    case selecting =>
      split at hx
      · split at hx
        · exact .inr (.inr ⟨r, rfl, .inl ⟨rfl, by assumption, by assumption, hx.symm⟩⟩)
        · exact .inl hx.symm
      · exact .inr (.inl hx.symm)
    case requesting =>
      split at hx
      · rcases ack (dhCommit s r) with h | ⟨hy, l, hl, h⟩
        · exact .inl (hx ▸ h)
        · exact .inr (.inr ⟨r, rfl, .inr (.inl ⟨rfl, by assumption, hy, l, hl, hx ▸ h⟩)⟩)
      · split at hx
        · exact .inr (.inr ⟨r, rfl, .inr (.inr (.inl ⟨rfl, by assumption, hx.symm⟩))⟩)
        · exact .inr (.inl hx.symm)
    all_goals exact .inr (.inl hx.symm)

/-- The commit: registers written, one gratuitous reply, one ARP update (44_dhcp.md R253, R255). -/
theorem dhCommit_eq (s : State) (r : DhReply) (l : BitVec 32) :
    dhCommit s r l
      = ((arpUpdate ((dhInstall s r.opts l).afterSend (specGratuitousArp (dhInstall s r.opts l))) s.dhcp.dhcpServer
            r.frameSrc s.params.arpStaticAge).1,
          if s.answerAt 0 = .err then .txFail else .ok) := by
  simp only [dhCommit, State.sendFrame_eq, gratuitousArp_eq]
  rfl

/-- The receive event: what it writes, and at most one frame. -/
theorem dhReceive_frame (s : State) (f : List Byte) :
    DhFrameOf s (dhReceive s f).1 ∧ (dhReceive s f).1.arp.length = s.arp.length
      ∧ ((dhReceive s f).1.events = s.events ∨ ∃ g, (dhReceive s f).1.events = s.events ++ [.send g]
          ∧ s.params.ethMinPacket ≤ g.length
          ∧ g.length ≤ max (max 302 (42 + s.params.dhcpMsgLen)) s.params.ethMinPacket) := by
  rcases dhReceive_cases s f with h | h | ⟨r, -, ⟨-, -, -, h⟩ | ⟨-, -, -, l, -, h⟩ | ⟨-, -, h⟩ | ⟨-, -, -, l, -, h⟩⟩
  · rw [h]
    exact ⟨rfl, rfl, .inl rfl⟩
  · rw [h]
    exact ⟨rfl, rfl, .inl rfl⟩
  · rw [h]
    simp only [dhOffer]
    obtain ⟨h1, -, -, h3, h4⟩ := dhSend_frame (s.setDhcp { s.dhcp with
      address := r.yiaddr, dhcpServer := (optWord r.opts 54#8).getD r.ipSrc, state := .requesting }) .requestSelecting
    refine ⟨DhFrameOf.trans (u := s.setDhcp _) rfl (h1.trans rfl), congrArg List.length h3, ?_⟩
    rcases h4 with h4 | ⟨g, hg, -, -, -, hl⟩
    · exact .inl h4.1
    · exact .inr ⟨g, hg, hl⟩
  · rw [h, dhCommit_eq]
    obtain ⟨t, n, hu, hl⟩ := arpUpdate_frame ((dhInstall s r.opts l).afterSend
      (specGratuitousArp (dhInstall s r.opts l))) s.dhcp.dhcpServer r.frameSrc s.params.arpStaticAge
    rw [hu]
    refine ⟨rfl, hl, .inr ⟨specGratuitousArp (dhInstall s r.opts l), rfl, ?_⟩⟩
    rw [← gratuitousArp_eq, gratuitousArp, length_ethFrame, length_arpBody]
    have : (dhInstall s r.opts l).params = s.params := rfl
    rw [this]
    omega
  · rw [h]
    exact ⟨rfl, rfl, .inl rfl⟩
  · rw [h]
    exact ⟨rfl, rfl, .inl rfl⟩

/-! ### Releasing -/

/-- The release event: what it writes, `Off` and no wish for an address, and at most one frame (44_dhcp.md R262). -/
theorem dhRelease_frame (s : State) :
    DhFrameOf { s with ctrl := { s.ctrl with dhcpWant := false } } (dhRelease s).1
      ∧ (dhRelease s).1.arp = s.arp ∧ (dhRelease s).1.dhcp.state = .off ∧ DhSends s (dhRelease s).1 := by
  have body : DhFrameOf s (dhReleaseBody s).1 ∧ (dhReleaseBody s).1.arp = s.arp ∧ DhSends s (dhReleaseBody s).1 := by
    have rel : DhFrameOf s (dhClear (dhSend s .release).1) ∧ (dhClear (dhSend s .release).1).arp = s.arp
        ∧ DhSends s (dhClear (dhSend s .release).1) := by
      obtain ⟨h1, -, -, h3, h4⟩ := dhSend_frame s .release
      exact ⟨h1.trans rfl, h3, h4.of_eq rfl rfl rfl rfl rfl rfl rfl rfl rfl⟩
    simp only [dhReleaseBody]
    cases s.dhcp.state
    · exact ⟨rfl, rfl, .refl s⟩
    · exact ⟨rfl, rfl, .inl ⟨rfl, rfl, rfl, rfl⟩⟩
    · exact ⟨rfl, rfl, .inl ⟨rfl, rfl, rfl, rfl⟩⟩
    · exact rel
    · exact rel
    · exact rel
    · exact ⟨rfl, rfl, .refl s⟩
    · exact ⟨rfl, rfl, .refl s⟩
  obtain ⟨h1, h2, h3⟩ := body
  refine ⟨?_, h2, rfl, h3.of_eq rfl rfl rfl rfl rfl rfl rfl rfl rfl⟩
  simp only [dhRelease]
  unfold DhFrameOf at h1 ⊢
  rw [h1]

end Sys2Proof.Machine
end

