-- ==== Sys2Proof/Laws/RetryQueue.lean ====
section
/-!
SUPPORT. What the operations on the retry pool can do (spec/42_retry_queue.md R170 to R178), and the ARP frame handler
that flushes it (41_arp_cache.md R154).
-/

namespace Sys2Proof.Machine

/-- The next hop reads the identity and nothing else. -/
theorem nextHop_eq (s : State) (d : IpAddr) : nextHop s d = specNextHop s d := rfl

theorem nextHop_congr {s u : State} (h : s.ident = u.ident) (d : IpAddr) : nextHop s d = nextHop u d := by
  simp only [nextHop, h]

theorem rqFreeSlot_eq_some_iff (t : List RqSlot) (i : Nat) :
    rqFreeSlot t = some i ↔ LowestIndex t (fun e => e.used = false) i := by
  rw [rqFreeSlot, findIdx?_eq_some_iff_lowest]
  simp

theorem rqFreeSlot_eq_none_iff (t : List RqSlot) : rqFreeSlot t = none ↔ ∀ e ∈ t, e.used = true := by
  simp [rqFreeSlot]

/-- Everything an enqueue can do (42_retry_queue.md R172). -/
theorem rqEnqueue_cases (s : State) (d : IpAddr) (b : List Byte) :
    ((b.length < 20 ∨ s.params.ipMaxLen < b.length) ∧ rqEnqueue s d b = (s.count .txDiscard, .discarded))
      ∨ (20 ≤ b.length ∧ b.length ≤ s.params.ipMaxLen ∧ nextHop s d = 0#32
          ∧ rqEnqueue s d b = (s.count .noRoute, .noRoute))
      ∨ (20 ≤ b.length ∧ b.length ≤ s.params.ipMaxLen ∧ nextHop s d ≠ 0#32 ∧ (∀ e ∈ s.rq, e.used = true)
          ∧ rqEnqueue s d b = (s.count .rqFull, .queueFull))
      ∨ (∃ i, 20 ≤ b.length ∧ b.length ≤ s.params.ipMaxLen ∧ nextHop s d ≠ 0#32
          ∧ LowestIndex s.rq (fun e => e.used = false) i
          ∧ rqEnqueue s d b
            = (({ s with
                  rq := s.rq.set i ⟨true, b, BitVec.ofNat 16 b.length, nextHop s d, s.params.rqLife⟩ } :
                  State).afterSend (specArpRequest s (nextHop s d)),
                if s.answerAt 0 = .err then .txFail else .queued)) := by
  simp only [rqEnqueue]
  by_cases hb : b.length < 20 ∨ s.params.ipMaxLen < b.length
  · exact .inl ⟨hb, by rw [if_pos hb]⟩
  · rw [if_neg hb]
    have h1 : 20 ≤ b.length := by omega
    have h2 : b.length ≤ s.params.ipMaxLen := by omega
    right
    by_cases hn : nextHop s d = 0#32
    · exact .inl ⟨h1, h2, hn, by rw [if_pos hn]⟩
    · rw [if_neg hn]
      right
      cases hf : rqFreeSlot s.rq with
      | none => exact .inl ⟨h1, h2, hn, (rqFreeSlot_eq_none_iff _).1 hf, rfl⟩
      | some i =>
        refine .inr ⟨i, h1, h2, hn, (rqFreeSlot_eq_some_iff _ _).1 hf, ?_⟩
        simp only [arpSendRequest_eq]
        show (_, _) = _
        refine Prod.ext rfl ?_
        show (if (if s.answerAt 0 = .err then Status.txFail else Status.ok) = .txFail then _ else _) = _
        split <;> simp_all

/-- What a tick makes of one slot with life left (42_retry_queue.md R176). -/
theorem RqSlot.tick_eq {e : RqSlot} (h : e.used = true → e.life ≠ 0#32) :
    e.tick = if e.used = true then (if e.life = 1#32 then RqSlot.zero else { e with life := e.life - 1#32 })
      else e := by
  simp only [RqSlot.tick]
  split
  · rename_i hu
    have h0 := h hu
    have hd : down e.life = e.life - 1#32 := by simp [down, h0]
    have hi : (e.life - 1#32 = 0#32) ↔ e.life = 1#32 := by
      constructor
      · intro h
        have := congrArg (· + 1#32) h
        simpa using this
      · rintro h
        rw [h]
        rfl
    rw [hd]
    simp only [hi]
  · rfl

/-! ### Flushing -/

/-- The frame a flushed slot leaves in. -/
theorem flushFrame_eq (s : State) (m : MacAddr) (e : RqSlot) :
    flushFrame s m e = specIpFrame s m (e.ipPacket.take e.pktLen.toNat) := by
  simp only [flushFrame, ethFrame, specIpFrame, List.length_append, length_bytes48, length_bytes16]
  rfl

/-- The states a run of sends passes through: one event, one answer and at most one failure a slot. -/
def afterSends (s : State) (fs : List (List Byte)) : State := fs.foldl State.afterSend s

@[simp] theorem afterSends_nil (s : State) : afterSends s [] = s := rfl
@[simp] theorem afterSends_cons (s : State) (f : List Byte) (fs : List (List Byte)) :
    afterSends s (f :: fs) = afterSends (s.afterSend f) fs := rfl

/-- The number of `err` answers among the next `n`. -/
def State.failures (s : State) (n : Nat) : Nat := (List.range n).countP (fun j => s.answerAt j == .err)

theorem State.failures_succ (s : State) (f : List Byte) (n : Nat) :
    s.failures (n + 1) = (if s.answerAt 0 = .err then 1 else 0) + (s.afterSend f).failures n := by
  simp only [State.failures, List.range_succ_eq_map, List.countP_cons, List.countP_map, State.answerAt_afterSend]
  rw [Nat.add_comm]
  congr 1
  by_cases h : s.answerAt 0 = .err <;> simp [h]

/-- A run of sends in closed form. -/
theorem afterSends_eq (fs : List (List Byte)) (s : State) :
    afterSends s fs = { s with
      events := s.events ++ fs.map Event.send, answers := s.answers.drop fs.length,
      sendCount := s.sendCount + fs.length,
      stats := { s.stats with txFail := s.stats.txFail + BitVec.ofNat 32 (s.failures fs.length) } } := by
  induction fs generalizing s with
  | nil => simp [State.failures]
  | cons f fs ih =>
    rw [afterSends_cons, ih, List.length_cons, State.failures_succ s f]
    simp only [State.afterSend_events, State.afterSend_answers, State.afterSend_sendCount, State.afterSend_stats,
      List.map_cons, List.append_assoc, List.singleton_append, List.drop_tail]
    rw [show s.sendCount + 1 + fs.length = s.sendCount + (fs.length + 1) by omega]
    have e : (if s.answerAt 0 = .err then s.stats.txFail + 1#32 else s.stats.txFail)
          + BitVec.ofNat 32 ((s.afterSend f).failures fs.length)
        = s.stats.txFail
          + BitVec.ofNat 32 ((if s.answerAt 0 = .err then 1 else 0) + (s.afterSend f).failures fs.length) := by
      rw [BitVec.ofNat_add]
      split <;> simp [BitVec.add_assoc]
    rw [e]
    rfl

/-- Everything the sends of a flush do. -/
theorem flushSends_eq (m : MacAddr) (l : List RqSlot) (s : State) :
    flushSends m l s = (afterSends s (l.map (fun e => specIpFrame s m (e.ipPacket.take e.pktLen.toNat))),
      if s.failures l.length = 0 then .ok else .txFail) := by
  induction l generalizing s with
  | nil => simp [flushSends, State.failures]
  | cons e l ih =>
    simp only [flushSends, State.sendFrame_eq, ih, flushFrame_eq, List.map_cons, afterSends_cons, List.length_cons]
    refine Prod.ext rfl ?_
    simp only
    have hs := State.failures_succ s (specIpFrame s m (e.ipPacket.take e.pktLen.toNat)) l.length
    by_cases h : s.answerAt 0 = .err <;> simp [h, hs]

/-- Everything a flush does (42_retry_queue.md R178). -/
theorem rqFlush_eq (s : State) (ip : IpAddr) (m : MacAddr) :
    rqFlush s ip m
      = ({ afterSends s ((s.rq.filter (RqSlot.awaits ip)).map
              (fun e => specIpFrame s m (e.ipPacket.take e.pktLen.toNat))) with
            rq := s.rq.map (fun e => if e.awaits ip then RqSlot.zero else e) },
          if s.failures (s.rq.filter (RqSlot.awaits ip)).length = 0 then .ok else .txFail) := by
  simp only [rqFlush, flushSends_eq]

/-! ### The ARP frame handler -/

/-- The reply frame, byte for byte. -/
theorem arpReplyFrame_eq (s : State) (sha : MacAddr) (spa : IpAddr) :
    ethFrame s.params sha s.ident.ownMac etherTypeArp (arpBody arpOpReply s.ident.ownMac s.ident.ownIp sha spa)
      = specArpReply s sha spa := rfl

/-- Everything the handler of a received ARP frame can do (41_arp_cache.md R154). -/
theorem arpHandleFrame_cases (s : State) (f : List Byte) :
    (¬ ArpFrameValid f ∧ arpHandleFrame s f = (s.count .rxDiscard, .discarded))
      ∨ (ArpFrameValid f ∧ be16 f 20 = 1#16 ∧ s.ident.ownIp ≠ 0#32 ∧ be32 f 38 = s.ident.ownIp
          ∧ arpHandleFrame s f
            = (arpUpdate s (be32 f 28) (be48 f 22) 0#16).1.sendFrame (specArpReply s (be48 f 22) (be32 f 28)))
      ∨ (ArpFrameValid f ∧ be16 f 20 = 2#16 ∧ s.ident.ownIp ≠ 0#32 ∧ be32 f 38 = s.ident.ownIp
          ∧ arpHandleFrame s f
            = rqFlush (arpUpdate s (be32 f 28) (be48 f 22) 0#16).1 (be32 f 28) (be48 f 22))
      ∨ (ArpFrameValid f
          ∧ ¬ ((be16 f 20 = 1#16 ∨ be16 f 20 = 2#16) ∧ s.ident.ownIp ≠ 0#32 ∧ be32 f 38 = s.ident.ownIp)
          ∧ arpHandleFrame s f = ((arpUpdate s (be32 f 28) (be48 f 22) 0#16).1, .ok)) := by
  by_cases hv : ArpFrameValid f
  · right
    have hd := (arpDecode_eq_some_iff f _).2 ⟨hv, rfl⟩
    obtain ⟨t, n, hu, -⟩ := arpUpdate_frame s (be32 f 28) (be48 f 22) 0#16
    have hid : (arpUpdate s (be32 f 28) (be48 f 22) 0#16).1.ident = s.ident := by rw [hu]
    have hpa : (arpUpdate s (be32 f 28) (be48 f 22) 0#16).1.params = s.params := by rw [hu]
    simp only [arpHandleFrame, hd, hid, hpa, arpOpRequest, ← arpReplyFrame_eq]
    by_cases h1 : be16 f 20 = 1#16 ∧ s.ident.ownIp ≠ 0#32 ∧ be32 f 38 = s.ident.ownIp
    · exact .inl ⟨hv, h1.1, h1.2.1, h1.2.2, by rw [if_pos h1]⟩
    · rw [if_neg h1]
      right
      by_cases h2 : be16 f 20 = 2#16 ∧ s.ident.ownIp ≠ 0#32 ∧ be32 f 38 = s.ident.ownIp
      · exact .inl ⟨hv, h2.1, h2.2.1, h2.2.2, if_pos h2⟩
      · refine .inr ⟨hv, ?_, if_neg h2⟩
        rintro ⟨h | h, hr⟩
        · exact h1 ⟨h, hr⟩
        · exact h2 ⟨h, hr⟩
  · exact .inl ⟨hv, by simp only [arpHandleFrame, (arpDecode_eq_none_iff f).2 hv]⟩

end Sys2Proof.Machine
end

