-- ==== Sys2Proof/Laws/Translator.lean ====
section
/-!
SUPPORT. What the operations on the port map and the two translations can do (spec/43_translator.md R190 to R216).
-/

namespace Sys2Proof.Machine

/-! ### The port map -/

/-- An entry of a flow, as a proposition (43_translator.md R198). -/
theorem PmapEntry.isFlow_iff (sp dp : BitVec 16) (e : PmapEntry) :
    e.isFlow sp dp = true ↔ e.srcPort = sp ∧ e.dstPort = dp ∧ ¬ (e.srcPort = 0#16 ∧ e.dstPort = 0#16) := by
  simp only [PmapEntry.isFlow, PmapEntry.isFree, Bool.and_eq_true, beq_iff_eq, Bool.not_eq_true',
    Bool.and_eq_false_iff, beq_eq_false_iff_ne]
  tauto

theorem pmapFind_eq_some_iff (t : List PmapEntry) (sp dp : BitVec 16) (i : Nat) :
    pmapFind t sp dp = some i
      ↔ LowestIndex t (fun e => e.srcPort = sp ∧ e.dstPort = dp ∧ ¬ (e.srcPort = 0#16 ∧ e.dstPort = 0#16)) i := by
  rw [pmapFind, findIdx?_eq_some_iff_lowest]
  simp only [PmapEntry.isFlow_iff]

theorem pmapFind_eq_none_iff (t : List PmapEntry) (sp dp : BitVec 16) :
    pmapFind t sp dp = none
      ↔ ∀ e ∈ t, ¬ (e.srcPort = sp ∧ e.dstPort = dp ∧ ¬ (e.srcPort = 0#16 ∧ e.dstPort = 0#16)) := by
  rw [pmapFind, findIdx?_eq_none_iff_all]
  simp only [← PmapEntry.isFlow_iff, Bool.not_eq_true]

theorem pmapFreeSlot_eq_some_iff (t : List PmapEntry) (i : Nat) :
    pmapFreeSlot t = some i ↔ LowestIndex t (fun e => e.srcPort = 0#16 ∧ e.dstPort = 0#16) i := by
  rw [pmapFreeSlot, findIdx?_eq_some_iff_lowest]
  simp [PmapEntry.isFree]

theorem pmapFreeSlot_eq_none_iff (t : List PmapEntry) :
    pmapFreeSlot t = none ↔ ∀ e ∈ t, ¬ (e.srcPort = 0#16 ∧ e.dstPort = 0#16) := by
  simp [pmapFreeSlot, PmapEntry.isFree]

/-- The close timer of a flow under a segment: armed by FIN or RST (43_translator.md R199). -/
def PmapEntry.closing (p : Params) (t : TcpHeader) (e : PmapEntry) : PmapEntry :=
  { e with closeTimer := if t.flags.getLsbD 0 = true ∨ t.flags.getLsbD 2 = true then p.pmapCloseTicks else e.closeTimer }

/-- Arming the close timer of a found entry. -/
theorem armClose_some {s : State} {i : Nat} {e : PmapEntry} (h : s.pmap[i]? = some e) (t : TcpHeader) :
    s.armClose (some i) t = { s with pmap := s.pmap.set i (e.closing s.params t) } := by
  obtain ⟨hi, he⟩ := List.getElem?_eq_some_iff.1 h
  simp only [State.armClose, TcpHeader.fin, TcpHeader.rst, Bool.or_eq_true, PmapEntry.closing]
  split
  · rw [List.modify_eq_set_getElem?, h]
    rfl
  · rename_i hc
    have : s.pmap.set i e = s.pmap := by
      rw [← he]
      exact List.set_getElem_self hi
    rw [this]

/-- What a tick makes of one entry (43_translator.md R216). -/
theorem PmapEntry.tick_eq (e : PmapEntry) :
    e.tick = if ¬ (e.srcPort = 0#16 ∧ e.dstPort = 0#16) ∧ e.closeTimer ≠ 0#16 then
        (if e.closeTimer = 1#16 then PmapEntry.zero else { e with closeTimer := e.closeTimer - 1#16 })
      else e := by
  have hi : (e.closeTimer - 1#16 = 0#16) ↔ e.closeTimer = 1#16 := by
    constructor
    · intro h
      have := congrArg (· + 1#16) h
      simpa using this
    · intro h
      rw [h]
      rfl
  simp only [PmapEntry.tick, PmapEntry.isFree, hi, Bool.or_eq_true, Bool.and_eq_true, beq_iff_eq]
  by_cases h : (e.srcPort = 0#16 ∧ e.dstPort = 0#16) ∨ e.closeTimer = 0#16
  · rw [if_pos h, if_neg (by tauto)]
  · have h2 : ¬ (e.srcPort = 0#16 ∧ e.dstPort = 0#16) ∧ e.closeTimer ≠ 0#16 := by tauto
    rw [if_neg h, if_pos h2]

/-! ### Lengths -/

@[simp] theorem length_rewriteIpHeader (p : Params) (hdr : List Byte) (off : Nat) (c : BitVec 16)
    (old new : IpAddr) : (rewriteIpHeader p hdr off c old new).length = hdr.length := by
  simp [rewriteIpHeader]

@[simp] theorem length_rewriteUdp (p : Params) (seg : List Byte) (u : UdpHeader) (old new : IpAddr) :
    (rewriteUdp p seg u old new).length = seg.length := by
  simp only [rewriteUdp]
  split <;> simp

@[simp] theorem length_adjustTcp (p : Params) (seg old new : List Byte) :
    (adjustTcp p seg old new).length = seg.length := by
  simp [adjustTcp]

@[simp] theorem length_shiftSeq (p : Params) (x : PmapEntry) (t : TcpHeader) (seg : List Byte) :
    (shiftSeq p x t seg).length = seg.length := by
  simp only [shiftSeq]
  split <;> simp

@[simp] theorem length_shiftAck (p : Params) (x : PmapEntry) (t : TcpHeader) (seg : List Byte) :
    (shiftAck p x t seg).length = seg.length := by
  simp only [shiftAck]
  split <;> simp

/-! ### What a translation leaves -/

/-- The form of every translation's answer: the port map and two counters move, the map keeps its size, and a packet
answered comes with `OK`, is as long as its input or no longer than `IP_MAX_LEN`, and is no shorter than a header. -/
def XlAnswers (s : State) (n : Nat) (r : XlResult) : Prop :=
  (∃ t a b c, r.1 = { s with pmap := t, stats := { s.stats with txDiscard := a, pmapFull := b, rxDiscard := c } }
      ∧ t.length = s.pmap.length)
    ∧ ∀ q, r.2.2 = some q → r.2.1 = .ok ∧ 20 ≤ q.length ∧ (q.length = n ∨ q.length ≤ s.params.ipMaxLen)

/-- An answer that moves nothing but the port map. -/
theorem XlAnswers.of_pmap {s u : State} {n : Nat} {q : List Byte} {t : List PmapEntry}
    (hu : u = { s with pmap := t }) (ht : t.length = s.pmap.length) (h20 : 20 ≤ q.length)
    (hq : q.length = n ∨ q.length ≤ s.params.ipMaxLen) : XlAnswers s n (u, .ok, some q) := by
  refine ⟨⟨t, _, _, _, hu, ht⟩, fun q' h => ?_⟩
  cases h
  exact ⟨rfl, h20, hq⟩

/-- An answer that leaves the state. -/
theorem XlAnswers.same {s : State} {n : Nat} {q : List Byte} (h20 : 20 ≤ q.length) (hq : q.length = n) :
    XlAnswers s n (s, .ok, some q) :=
  .of_pmap rfl rfl h20 (.inl hq)

/-- A later state that differs from an earlier one in the port map alone answers for it. -/
theorem XlAnswers.weaken {s u : State} {n : Nat} {r : XlResult} {t : List PmapEntry}
    (hu : u = { s with pmap := t }) (ht : t.length = s.pmap.length) (h : XlAnswers u n r) : XlAnswers s n r := by
  subst hu
  obtain ⟨⟨t', a, b, c, h1, h2⟩, h3⟩ := h
  exact ⟨⟨t', a, b, c, h1, h2.trans ht⟩, h3⟩

/-- Arming a close timer moves the port map alone. -/
theorem armClose_frame (s : State) (i : Option Nat) (t : TcpHeader) :
    ∃ l, s.armClose i t = { s with pmap := l } ∧ l.length = s.pmap.length := by
  cases i with
  | none => exact ⟨s.pmap, rfl, rfl⟩
  | some i =>
    simp only [State.armClose]
    split
    · exact ⟨_, rfl, by simp⟩
    · exact ⟨s.pmap, rfl, rfl⟩

/-- The different-length rewrite. -/
theorem xlOutGrow_answers (s : State) (h : IpHeader) (t : TcpHeader) (hdr seg : List Byte) (e : Option Nat)
    (y y2 : List Byte) (n : Nat) (hl : 20 ≤ h.hl) (hh : hdr.length = h.hl) (hs : t.hlen ≤ seg.length) :
    XlAnswers s n (xlOutGrow s h t hdr seg e y y2) := by
  simp only [xlOutGrow]
  split
  · exact ⟨⟨s.pmap, _, _, _, rfl, rfl⟩, fun q hq => by cases hq⟩
  · cases e with
    | some i =>
      refine .of_pmap rfl (by simp) ?_ (.inr ?_) <;> simp [hh] <;> omega
    | none =>
      simp only
      cases pmapFreeSlot s.pmap with
      | none => exact ⟨⟨s.pmap, _, _, _, rfl, rfl⟩, fun q hq => by cases hq⟩
      | some i => refine .of_pmap rfl (by simp) ?_ (.inr ?_) <;> simp [hh] <;> omega

/-- The `PORT` rewrite. -/
theorem xlOutFtp_answers (s : State) (h : IpHeader) (t : TcpHeader) (hdr seg : List Byte) (e : Option Nat)
    (hl : 20 ≤ h.hl) (hh : hdr.length = h.hl) (hs : t.hlen ≤ seg.length) :
    XlAnswers s (h.hl + seg.length) (xlOutFtp s h t hdr seg e) := by
  simp only [xlOutFtp]
  split
  · split
    · exact .same (by simp; omega) (by simp [hh])
    · rename_i rest _
      split
      · rename_i hlen
        simp only [List.length_drop] at hlen
        exact .same (by simp [hh]; omega) (by simp [hh, hlen]; omega)
      · exact xlOutGrow_answers s h t hdr seg e _ _ _ hl hh hs
  · exact .same (by simp; omega) (by simp [hh])

/-- The TCP part of the outbound translation. -/
theorem xlOutTcp_answers (s : State) (h : IpHeader) (t : TcpHeader) (hdr seg : List Byte)
    (hl : 20 ≤ h.hl) (hh : hdr.length = h.hl) (hs : t.hlen ≤ seg.length) :
    XlAnswers s (h.hl + seg.length) (xlOutTcp s h t hdr seg) := by
  simp only [xlOutTcp]
  split
  · exact xlOutFtp_answers s h t hdr seg none hl hh hs
  · rename_i i _
    split
    · exact .weaken (u := s.clearFlow i) rfl (by simp) (xlOutFtp_answers _ h t hdr seg none hl hh hs)
    · obtain ⟨l, hu, hlen⟩ := armClose_frame s (some i) t
      have := xlOutFtp_answers (s.armClose (some i) t) h t hdr (shiftSeq s.params (pmapGet s i) t seg) (some i)
        hl hh (by simpa using hs)
      rw [length_shiftSeq] at this
      exact .weaken hu hlen this

/-- The TCP part of the inbound translation. -/
theorem xlInTcp_answers (s : State) (t : TcpHeader) (hdr seg : List Byte) (hh : 20 ≤ hdr.length) :
    XlAnswers s (hdr.length + seg.length) (xlInTcp s t hdr seg) := by
  simp only [xlInTcp]
  split
  · exact .same (by simp; omega) (by simp)
  · rename_i i _
    split
    · exact .of_pmap (t := (s.clearFlow i).pmap) rfl (by simp) (by simp; omega) (.inl (by simp))
    · obtain ⟨l, hu, hlen⟩ := armClose_frame s (some i) t
      exact .of_pmap hu hlen (by simp; omega) (.inl (by simp))

/-- Everything the outbound translation can answer: a drop of an undecodable packet, or a packet as `XlAnswers` says. -/
theorem xlOut_answers (s : State) (b : List Byte) :
    (ipDecode b = none ∧ xlOut s b = (s.count .txDiscard, .discarded, none))
      ∨ ∃ h, ipDecode b = some h ∧ XlAnswers s h.tl (xlOut s b) := by
  simp only [xlOut]
  split
  · exact .inl ⟨by assumption, rfl⟩
  · rename_i h hd
    obtain ⟨-, -, h20, hht, htb, -⟩ := ipDecode_some hd
    refine .inr ⟨h, hd, ?_⟩
    have l1 : (b.take h.tl).length = h.tl := by simp; omega
    have l2 : ((b.take h.tl).take h.hl).length = h.hl := by simp; omega
    have l3 : ((b.take h.tl).drop h.hl).length = h.tl - h.hl := by simp; omega
    split
    · exact .same (by omega) l1
    · split
      · exact .same (by simp [l2, l3]; omega) (by simp [l2, l3]; omega)
      · split
        · split
          · exact .same (by simp [l2, l3]; omega) (by simp [l2, l3]; omega)
          · exact .same (by simp [l2, l3]; omega) (by simp [l2, l3]; omega)
        · split
          · split
            · exact .same (by simp [l2, l3]; omega) (by simp [l2, l3]; omega)
            · rename_i t ht
              have := (tcpDecode_some ht).2.2.1
              have hx := xlOutTcp_answers s h t (rewriteIpHeader s.params ((b.take h.tl).take h.hl) 12 h.csum h.src
                s.ident.ownIp) (adjustTcp s.params ((b.take h.tl).drop h.hl) (bytes32 h.src) (bytes32 s.ident.ownIp))
                h20 (by rw [length_rewriteIpHeader, l2]) (by simpa using this)
              rw [length_adjustTcp, l3, show h.hl + (h.tl - h.hl) = h.tl by omega] at hx
              exact hx
          · exact .same (by simp [l2, l3]; omega) (by simp [l2, l3]; omega)

/-- Everything the inbound translation can answer. -/
theorem xlIn_answers (s : State) (b : List Byte) :
    (ipDecode b = none ∧ xlIn s b = (s.count .rxDiscard, .discarded, none))
      ∨ ∃ h, ipDecode b = some h ∧ XlAnswers s h.tl (xlIn s b) := by
  simp only [xlIn]
  split
  · exact .inl ⟨by assumption, rfl⟩
  · rename_i h hd
    obtain ⟨-, -, h20, hht, htb, -⟩ := ipDecode_some hd
    refine .inr ⟨h, hd, ?_⟩
    have l1 : (b.take h.tl).length = h.tl := by simp; omega
    have l2 : ((b.take h.tl).take h.hl).length = h.hl := by simp; omega
    have l3 : ((b.take h.tl).drop h.hl).length = h.tl - h.hl := by simp; omega
    split
    · exact .same (by omega) l1
    · split
      · exact .same (by simp [l2, l3]; omega) (by simp [l2, l3]; omega)
      · split
        · split
          · exact .same (by simp [l2, l3]; omega) (by simp [l2, l3]; omega)
          · exact .same (by simp [l2, l3]; omega) (by simp [l2, l3]; omega)
        · split
          · split
            · exact .same (by simp [l2, l3]; omega) (by simp [l2, l3]; omega)
            · rename_i t _
              have hx := xlInTcp_answers s t (rewriteIpHeader s.params ((b.take h.tl).take h.hl) 16 h.csum h.dst
                s.ident.externalHostIp) (adjustTcp s.params ((b.take h.tl).drop h.hl) (bytes32 h.dst)
                (bytes32 s.ident.externalHostIp)) (by rw [length_rewriteIpHeader, l2]; exact h20)
              rw [length_adjustTcp, length_rewriteIpHeader, l2, l3, show h.hl + (h.tl - h.hl) = h.tl by omega] at hx
              exact hx
          · exact .same (by simp [l2, l3]; omega) (by simp [l2, l3]; omega)

/-- The inbound translation drops only an undecodable packet. -/
theorem xlIn_packet {s : State} {b : List Byte} {h : IpHeader} (hd : ipDecode b = some h) :
    ∃ u q, xlIn s b = (u, .ok, some q) := by
  simp only [xlIn, hd]
  repeat' split
  all_goals first
    | exact ⟨_, _, rfl⟩
    | (simp only [xlInTcp]; repeat' split) <;> exact ⟨_, _, rfl⟩

end Sys2Proof.Machine
end

