-- ==== Sys2Proof/Laws/Bridge.lean ====
section
/-!
SUPPORT. What the operations of the bridge can do (spec/45_bridge.md R290 to R306), and what each command answers in terms
of the operations of its unit.
-/

namespace Sys2Proof.Machine

/-- Everything the handler of a received frame can do (45_bridge.md R295). -/
theorem bridgeRx_cases (s : State) (f : List Byte) :
    bridgeRx s f = (s.count .rxDiscard, .discarded) ∨ bridgeRx s f = arpHandleFrame s f
      ∨ bridgeRx s f = dhReceive s f
      ∨ ∃ h u q, ipDecode (f.drop 14) = some h ∧ 20 ≤ h.tl ∧ h.tl ≤ f.length - 14
          ∧ xlIn s ((f.drop 14).take h.tl) = (u, .ok, some q) ∧ bridgeRx s f = (u.emit (.hostDeliver q), .ok) := by
  simp only [bridgeRx, rxDiscard]
  split
  · exact .inl rfl
  · split
    · exact .inr (.inl rfl)
    · split
      · simp only [bridgeRxIp, rxDiscard]
        split
        · exact .inl rfl
        · rename_i h hd
          obtain ⟨e1, e2, h1, h2, h3, e3⟩ := ipDecode_some hd
          simp only [List.length_drop] at h3
          split
          · exact .inr (.inr (.inl rfl))
          · split
            · obtain ⟨u, q, hx⟩ := xlIn_packet (s := s) (ipDecode_take hd)
              refine .inr (.inr (.inr ⟨h, u, q, hd, by omega, h3, hx, ?_⟩))
              simp only [deliverIn, hx]
            · exact .inl rfl
      · exact .inl rfl

/-- Everything the routing of a translated packet can do (45_bridge.md R298, R301). -/
theorem bridgeRoute_cases (s : State) (q : List Byte) :
    (nextHop s (be32 q 16) = 0#32 ∧ bridgeRoute s q = (s.count .noRoute, .noRoute))
      ∨ (nextHop s (be32 q 16) ≠ 0#32
          ∧ ((∃ m, arpLookup s (nextHop s (be32 q 16)) = some m
                ∧ bridgeRoute s q = (s.afterSend (specIpFrame s m q), if s.answerAt 0 = .err then .txFail else .ok))
            ∨ (arpLookup s (nextHop s (be32 q 16)) = none ∧ bridgeRoute s q = rqEnqueue s (be32 q 16) q))) := by
  simp only [bridgeRoute]
  split
  · exact .inl ⟨by assumption, rfl⟩
  · refine .inr ⟨by assumption, ?_⟩
    split
    · rename_i m hm
      refine .inl ⟨m, hm, ?_⟩
      rw [State.sendFrame_eq]
      have : ethFrame s.params m s.ident.ownMac etherTypeIp q = specIpFrame s m q := by
        simp only [ethFrame, specIpFrame, List.length_append, length_bytes48, length_bytes16]
        rfl
      rw [this]
    · rename_i hm
      exact .inr ⟨hm, rfl⟩

/-- Everything the handler of a host packet can do, after `rfnm_count` (45_bridge.md R298, R299). -/
theorem bridgeTxBody_cases (s : State) (b : List Byte) :
    (∃ st, bridgeTxBody s b = (s.count .txDiscard, st))
      ∨ ∃ h, ipDecode b = some h ∧ h.tl ≤ s.params.ipMaxLen ∧ s.ident.ownIp ≠ 0#32
          ∧ ((∃ u st, xlOut s b = (u, st, none) ∧ bridgeTxBody s b = (u, st))
            ∨ ∃ u st q, xlOut s b = (u, st, some q) ∧ bridgeTxBody s b = bridgeRoute u q) := by
  simp only [bridgeTxBody, txDrop]
  split
  · exact .inl ⟨_, rfl⟩
  · rename_i h hd
    split
    · exact .inl ⟨_, rfl⟩
    · split
      · exact .inl ⟨_, rfl⟩
      · refine .inr ⟨h, hd, by omega, by assumption, ?_⟩
        split
        · rename_i u st hx
          exact .inl ⟨u, st, hx, rfl⟩
        · rename_i u st q hx
          exact .inr ⟨u, st, q, hx, rfl⟩

/-- A decoded IP packet's frame is as long as its packet and header, and no shorter than `ETH_MIN_PACKET`. -/
theorem length_specIpFrame (s : State) (m : MacAddr) (q : List Byte) :
    (specIpFrame s m q).length = max (14 + q.length) s.params.ethMinPacket := by
  simp [specIpFrame]
  omega

theorem length_specArpRequest (s : State) (ip : IpAddr) :
    (specArpRequest s ip).length = max 42 s.params.ethMinPacket := by
  rw [← arpRequestFrame_eq, arpRequestFrame, length_ethFrame, length_arpBody]

theorem length_specArpReply (s : State) (sha : MacAddr) (spa : IpAddr) :
    (specArpReply s sha spa).length = max 42 s.params.ethMinPacket := by
  rw [← arpReplyFrame_eq, length_ethFrame, length_arpBody]

/-! ### What each command answers -/

/-- A command that reads no buffer, attached. -/
theorem exec_attached {s : State} (h : s.ctrl.attached = true) :
    exec .arpAge s = .next ((arpAgeTick s).withStatus 0#8) ∧ exec .rqTick s = .next ((rqTick s).withStatus 0#8)
      ∧ exec .pmTick s = .next ((pmapTick s).withStatus 0#8)
      ∧ exec .dhTick s = .next ((dhTick s).1.withStatus (dhTick s).2.code)
      ∧ exec .dhRel s = .next ((dhRelease s).1.withStatus (dhRelease s).2.code)
      ∧ exec .arpReq s = .next ((arpSendRequest s s.port.opIp).1.withStatus (arpSendRequest s s.port.opIp).2.code)
      ∧ exec .arpUpdate s = .next ((arpUpdate s s.port.opIp s.port.opMac s.port.opAge).1.withStatus
          (arpUpdate s s.port.opIp s.port.opMac s.port.opAge).2.code)
      ∧ exec .rqFlush s = .next ((rqFlush s s.port.opIp s.port.opMac).1.withStatus
          (rqFlush s s.port.opIp s.port.opMac).2.code) :=
  ⟨whenAttached_attached h, whenAttached_attached h, whenAttached_attached h, whenAttached_attached h,
    whenAttached_attached h, whenAttached_attached h, whenAttached_attached h, whenAttached_attached h⟩

/-- A command that reads `BUF_A` and stores no packet, attached, its length in range. -/
theorem exec_attached_bufA {s : State} (h : s.ctrl.attached = true) (hl : s.port.lenA.toNat ≤ s.params.bufCap) :
    exec .rx s = .next ((bridgeRx s s.operandA).1.withStatus (bridgeRx s s.operandA).2.code)
      ∧ exec .tx s = .next ((bridgeTx s s.operandA).1.withStatus (bridgeTx s s.operandA).2.code)
      ∧ exec .arpRx s = .next ((arpHandleFrame s s.operandA).1.withStatus (arpHandleFrame s s.operandA).2.code)
      ∧ exec .rqEnq s = .next ((rqEnqueue s s.port.opIp s.operandA).1.withStatus
          (rqEnqueue s s.port.opIp s.operandA).2.code)
      ∧ exec .dhRx s = .next ((dhReceive s s.operandA).1.withStatus (dhReceive s s.operandA).2.code) := by
  refine ⟨?_, ?_, ?_, ?_, ?_⟩ <;> exact (whenAttached_attached h).trans (withBufA_fits hl)

/-- A command that stores a translated packet, attached, its length in range. -/
theorem exec_attached_xl {s : State} (h : s.ctrl.attached = true) (hl : s.port.lenA.toNat ≤ s.params.bufCap) :
    exec .xlOut s = storeOut (xlOut s s.operandA) ∧ exec .xlIn s = storeOut (xlIn s s.operandA) := by
  refine ⟨?_, ?_⟩ <;> exact (whenAttached_attached h).trans (withBufA_fits hl)

end Sys2Proof.Machine
end

