-- ==== Sys2Proof/Laws/Exec.lean ====
section
/-!
SUPPORT. The inversion of `exec`: a command that answers a next state was refused with a status alone, or ran the
operation of its unit; and the inversion of `step`.
-/

namespace Sys2Proof.Machine

/-- The state an operation leaves with its status written. -/
def ended (r : State × Status) : State := r.1.withStatus r.2.code

/-- The state a command leaves when it runs, in terms of the operation of its unit. -/
def Ran (s t : State) : Instr → Prop
  | .attach => s.ctrl.attached = false ∧ t = ((attachState s).emit (.setFilter s.ident.ownMac [])).withStatus 0#8
  | .detach => s.ctrl.attached = true
      ∧ t = ({ (dhRelease s).1.clearTables with
          dhcp := Dhcp.zero, ctrl := { (dhRelease s).1.ctrl with attached := false } } : State).withStatus
            (dhRelease s).2.code
  | .tick => s.ctrl.attached = true
      ∧ t = (pmapTick (rqTick (dhTick (arpAgeTick s)).1)).withStatus (dhTick (arpAgeTick s)).2.code
  | .rx => s.ctrl.attached = true ∧ t = ended (bridgeRx s s.operandA)
  | .tx => s.ctrl.attached = true ∧ t = ended (bridgeTxBody (s.count .rfnm) s.operandA)
  | .csrWr => ∃ r, Csr.ofNumber s.port.opReg = some r ∧ t = ended (s.writeCsr s.port.opVal r)
  | .csrRd => ∃ r, Csr.ofNumber s.port.opReg = some r
      ∧ t = ({ s with port := { s.port with resVal := s.readCsr r } } : State).withStatus 0#8
  | .csum => t = (s.putCsum (checksum s.operandA)).withStatus 0#8
  | .csadj => t = (s.putCsum (adjustCsum s.params s.port.opCsum s.operandA s.operandB)).withStatus 0#8
  | .arpLookup => s.ctrl.attached = true ∧ ∃ m, arpLookup s s.port.opIp = some m
      ∧ t = ({ s with port := { s.port with resMac := m } } : State).withStatus 0#8
  | .arpUpdate => s.ctrl.attached = true ∧ t = ended (arpUpdate s s.port.opIp s.port.opMac s.port.opAge)
  | .arpAge => s.ctrl.attached = true ∧ t = (arpAgeTick s).withStatus 0#8
  | .arpReq => s.ctrl.attached = true ∧ t = ended (arpSendRequest s s.port.opIp)
  | .arpRx => s.ctrl.attached = true ∧ t = ended (arpHandleFrame s s.operandA)
  | .rqEnq => s.ctrl.attached = true ∧ t = ended (rqEnqueue s s.port.opIp s.operandA)
  | .rqTick => s.ctrl.attached = true ∧ t = (rqTick s).withStatus 0#8
  | .rqFlush => s.ctrl.attached = true ∧ t = ended (rqFlush s s.port.opIp s.port.opMac)
  | .xlOut => s.ctrl.attached = true ∧ storeOut (xlOut s s.operandA) = .next t
  | .xlIn => s.ctrl.attached = true ∧ storeOut (xlIn s s.operandA) = .next t
  | .pmTick => s.ctrl.attached = true ∧ t = (pmapTick s).withStatus 0#8
  | .dhTick => s.ctrl.attached = true ∧ t = ended (dhTick s)
  | .dhRx => s.ctrl.attached = true ∧ t = ended (dhReceive s s.operandA)
  | .dhRel => s.ctrl.attached = true ∧ t = ended (dhRelease s)

/-- Everything a command that answers a next state can have done. -/
theorem exec_next {i : Instr} {s t : State} (h : exec i s = .next t) : (∃ c, t = s.withStatus c) ∨ Ran s t i := by
  have gate : ∀ {k : Result}, whenAttached s k = .next t → (∃ c, t = s.withStatus c)
      ∨ (s.ctrl.attached = true ∧ k = .next t) := fun h =>
    (whenAttached_next h).elim .inr fun h => .inl ⟨_, h.2⟩
  have bufA : ∀ {k : List Byte → Result}, withBufA s k = .next t → (∃ c, t = s.withStatus c)
      ∨ k s.operandA = .next t := fun h =>
    (withBufA_next h).elim (fun h => .inr h.2) fun h => .inl ⟨_, h.2⟩
  have both : ∀ {k : List Byte → Result}, whenAttached s (withBufA s k) = .next t → (∃ c, t = s.withStatus c)
      ∨ (s.ctrl.attached = true ∧ k s.operandA = .next t) := fun h =>
    (gate h).elim .inl fun ⟨ha, h⟩ => (bufA h).imp id fun h => ⟨ha, h⟩
  have eq : ∀ {u : State}, (.next u : Result) = .next t → t = u := fun h => (Host.Outcome.next.inj h).symm
  cases i
  case attach =>
    simp only [exec, execAttach] at h
    split at h
    · exact .inl ⟨_, eq h⟩
    · rename_i hn
      exact .inr ⟨by simpa using hn, eq h⟩
  case csrWr =>
    simp only [exec, execCsrWr] at h
    split at h
    · exact .inl ⟨_, eq h⟩
    · exact .inr ⟨_, by assumption, eq h⟩
  case csrRd =>
    simp only [exec, execCsrRd] at h
    split at h
    · exact .inl ⟨_, eq h⟩
    · exact .inr ⟨_, by assumption, eq h⟩
  case csum =>
    simp only [exec, execCsum] at h
    exact (bufA h).imp id eq
  case csadj =>
    simp only [exec, execCsadj] at h
    refine (bufA h).elim .inl fun h => ?_
    exact (withBufB_next h).elim (fun h => .inr (eq h.2)) fun h => .inl ⟨_, h.2⟩
  case arpLookup =>
    refine (gate h).elim .inl fun ⟨ha, h⟩ => ?_
    cases hm : arpLookup s s.port.opIp with
    | none =>
      rw [hm] at h
      exact .inl ⟨_, eq h⟩
    | some m =>
      rw [hm] at h
      exact .inr ⟨ha, m, hm, eq h⟩
  case xlOut => exact both h
  case xlIn => exact both h
  case rx => exact (both h).imp id fun h => ⟨h.1, eq h.2⟩
  case tx => exact (both h).imp id fun h => ⟨h.1, eq h.2⟩
  case arpRx => exact (both h).imp id fun h => ⟨h.1, eq h.2⟩
  case rqEnq => exact (both h).imp id fun h => ⟨h.1, eq h.2⟩
  case dhRx => exact (both h).imp id fun h => ⟨h.1, eq h.2⟩
  all_goals exact (gate h).imp id fun h => ⟨h.1, eq h.2⟩

/-- Everything a step that answers a next state can have done: the environment acted, or a command ran on the accepted
state, or a reserved opcode was answered. -/
theorem step_next {s t : State} (h : step s = .next t) :
    (s.cmdPending = false ∧ envStep s = .next t)
      ∨ (s.cmdPending = true ∧ ∃ i, decode [s.port.cmd] = .ok i ∧ exec i s.accept = .next t)
      ∨ (s.cmdPending = true ∧ t = s.accept.withStatus 7#8) := by
  cases hp : s.cmdPending
  · rw [step_idle hp] at h
    exact .inl ⟨rfl, h⟩
  · rcases step_pending hp with ⟨i, hd, hs⟩ | ⟨-, hs⟩
    · rw [hs] at h
      exact .inr (.inl ⟨rfl, i, hd, h⟩)
    · rw [hs] at h
      exact .inr (.inr ⟨rfl, (Host.Outcome.next.inj h).symm⟩)

end Sys2Proof.Machine
end

