-- ==== Sys2Proof/Laws/PerInstr.lean ====
section
/-!
SUPPORT. A statement about the syntax of every command, proved command by command: it is well formed, its encoding is one
byte, that byte decodes to it, and as a table word it is read back (spec/30_encoding.md R80, R81).
-/

namespace Sys2Proof.Laws.DecodeEncode

/-- The encoding of a command is one byte that decodes to the command, as bytes and as a table word. -/
def Statement (i : Instr) : Prop :=
  i.wellFormed = true ∧ (encode i).length = 1 ∧ decode (encode i) = .ok i
    ∧ decodeTableWord 8 (encodeOpcode i).toNat = some i

theorem attach : Statement .attach := ⟨rfl, rfl, rfl, rfl⟩
theorem detach : Statement .detach := ⟨rfl, rfl, rfl, rfl⟩
theorem tick : Statement .tick := ⟨rfl, rfl, rfl, rfl⟩
theorem rx : Statement .rx := ⟨rfl, rfl, rfl, rfl⟩
theorem tx : Statement .tx := ⟨rfl, rfl, rfl, rfl⟩
theorem csrWr : Statement .csrWr := ⟨rfl, rfl, rfl, rfl⟩
theorem csrRd : Statement .csrRd := ⟨rfl, rfl, rfl, rfl⟩
theorem csum : Statement .csum := ⟨rfl, rfl, rfl, rfl⟩
theorem csadj : Statement .csadj := ⟨rfl, rfl, rfl, rfl⟩
theorem arpLookup : Statement .arpLookup := ⟨rfl, rfl, rfl, rfl⟩
theorem arpUpdate : Statement .arpUpdate := ⟨rfl, rfl, rfl, rfl⟩
theorem arpAge : Statement .arpAge := ⟨rfl, rfl, rfl, rfl⟩
theorem arpReq : Statement .arpReq := ⟨rfl, rfl, rfl, rfl⟩
theorem arpRx : Statement .arpRx := ⟨rfl, rfl, rfl, rfl⟩
theorem rqEnq : Statement .rqEnq := ⟨rfl, rfl, rfl, rfl⟩
theorem rqTick : Statement .rqTick := ⟨rfl, rfl, rfl, rfl⟩
theorem rqFlush : Statement .rqFlush := ⟨rfl, rfl, rfl, rfl⟩
theorem xlOut : Statement .xlOut := ⟨rfl, rfl, rfl, rfl⟩
theorem xlIn : Statement .xlIn := ⟨rfl, rfl, rfl, rfl⟩
theorem pmTick : Statement .pmTick := ⟨rfl, rfl, rfl, rfl⟩
theorem dhTick : Statement .dhTick := ⟨rfl, rfl, rfl, rfl⟩
theorem dhRx : Statement .dhRx := ⟨rfl, rfl, rfl, rfl⟩
theorem dhRel : Statement .dhRel := ⟨rfl, rfl, rfl, rfl⟩

end Sys2Proof.Laws.DecodeEncode
end

