-- ==== Sys2Proof/Tests/Slice0.lean ====
section
/-!
SUPPORT. The tests: every constructor's word, the ill-formed parameter records, one or two steps per command with results
taken from spec/95_test_vectors.md, and, for each statement that has hypotheses, a witness that meets them together, one
conjunct (or one group of conjuncts) per clause, at boundary values.
-/

open Sys2Proof Sys2Proof.Machine

namespace Sys2Proof.Tests

-- One theorem at a time: each waits for the kernel, and the waiting threads add up.
set_option Elab.async false

/-! ### Helpers -/

/-- Bytes from numbers. -/
def hex (l : List Nat) : List Byte := l.map (BitVec.ofNat 8)

/-- The IP address `a.b.c.d`. -/
def ip (a b c d : Nat) : IpAddr := BitVec.ofNat 32 (((a * 256 + b) * 256 + c) * 256 + d)

/-- The link address `02:00:00:00:hi:lo`. -/
def mac (n : Nat) : MacAddr := BitVec.ofNat 48 (0x020000000000 + n)

/-- The reference parameters with tables of two entries. -/
def small : Params := { Params.reference with arpCapacity := 2, rqPool := 2, pmapCapacity := 2 }

/-- Legal parameters with short frames: `IP_MAX_LEN` is 386. -/
def short : Params := { small with ethMaxPacket := 400 }

/-- The base state of spec/95_test_vectors.md with small tables: `10.0.0.5/24`, gateway `10.0.0.1`, every send answered
`ok`. -/
def up : State :=
  { State.reset with
    params := small, ident := ⟨mac 0xAA, ip 10 0 0 5, ip 255 255 255 0, ip 10 0 0 1, 0#32⟩, ctrl := ⟨true, false⟩,
    arp := [ArpEntry.zero, ArpEntry.zero], rq := [RqSlot.zero, RqSlot.zero], pmap := [PmapEntry.zero, PmapEntry.zero],
    answers := [.ok, .ok] }

/-- The base state, detached. -/
def down0 : State := { up with ctrl := ⟨false, false⟩ }

/-- The buffer that holds bytes from an address on and zeros elsewhere, in the canonical form. -/
def cells : Nat → List Byte → Memory
  | _, [] => []
  | a, x :: b => if x = 0#8 then cells (a + 1) b else (a, x) :: cells (a + 1) b

/-- The input buffer `BUF_A` and `LEN_A`. -/
def withA (s : State) (b : List Byte) : State :=
  { s with bufA := cells 0 b, port := { s.port with lenA := BitVec.ofNat 16 b.length } }

/-- The input buffer `BUF_B` and `LEN_B`. -/
def withB (s : State) (b : List Byte) : State :=
  { s with bufB := cells 0 b, port := { s.port with lenB := BitVec.ofNat 16 b.length } }

theorem cells_above (b : List Byte) : ∀ a : Nat, ∀ c ∈ cells a b, a ≤ c.1 := by
  induction b with
  | nil => exact fun _ _ h => by cases h
  | cons x b ih =>
    intro a c h
    simp only [cells] at h
    split at h
    · exact Nat.le_of_succ_le (ih _ _ h)
    · rcases List.mem_cons.1 h with rfl | h
      · exact Nat.le_refl _
      · exact Nat.le_of_succ_le (ih _ _ h)

theorem readBytes_skip (n : Nat) : ∀ (m : Memory) (a c : Nat) (x : Byte), a < c →
    Memory.readBytes ((a, x) :: m) c n = Memory.readBytes m c n := by
  induction n with
  | zero => exact fun _ _ _ _ _ => rfl
  | succ n ih =>
    intro m a c x h
    simp only [Memory.readBytes, Memory.read]
    rw [if_neg (by omega), if_neg (by omega), ih _ _ _ _ (by omega)]

theorem readBytes_cells (b : List Byte) : ∀ a : Nat, (cells a b).readBytes a b.length = b := by
  induction b with
  | nil => exact fun _ => rfl
  | cons x b ih =>
    intro a
    simp only [cells, List.length_cons, Memory.readBytes]
    split
    · next h => rw [ih, Memory.read_below fun d hd => cells_above b (a + 1) d hd, h, Memory.unlisted]
    · rw [readBytes_skip _ _ _ _ _ (Nat.lt_succ_self a), ih]
      simp [Memory.read]

theorem lenA_withA (s : State) {b : List Byte} (h : b.length < 65536) : (withA s b).port.lenA.toNat = b.length := by
  simp [withA, Nat.mod_eq_of_lt h]

/-- The operand is the bytes the buffer was given. -/
theorem operandA_withA (s : State) {b : List Byte} (h : b.length < 65536) : (withA s b).operandA = b := by
  rw [State.operandA, lenA_withA s h]
  exact readBytes_cells b 0

/-- `LEN_A` alone. -/
def lenA (s : State) (n : Nat) : State := { s with port := { s.port with lenA := BitVec.ofNat 16 n } }

/-- `LEN_B` alone. -/
def lenB (s : State) (n : Nat) : State := { s with port := { s.port with lenB := BitVec.ofNat 16 n } }

/-- The operands `OP_IP`, `OP_MAC`, `OP_AGE`. -/
def ops (s : State) (a : IpAddr) (m : MacAddr) (age : BitVec 16) : State :=
  { s with port := { s.port with opIp := a, opMac := m, opAge := age } }

/-- The operands `OP_REG`, `OP_VAL`. -/
def csr (s : State) (r : BitVec 8) (v : BitVec 48) : State :=
  { s with port := { s.port with opReg := r, opVal := v } }

/-- The next state of a command, if there is one. -/
def outcome (i : Instr) (s : State) : Option State :=
  match exec i s with
  | .next t => some t
  | .fault _ => none
  | .refused _ => none

/-- Whether a step answers a next state. -/
def steps (s : State) : Bool :=
  match step s with
  | .next _ => true
  | .fault _ => false
  | .refused _ => false

/-- `BUF_OUT[0:LEN_OUT]`. -/
def outBytes (s : State) : List Byte := s.bufOut.readBytes 0 s.port.lenOut.toNat

theorem next_of_steps {s : State} (h : steps s = true) : ∃ t, step s = .next t := by
  unfold steps at h
  cases hs : step s <;> simp_all

theorem next_of_outcome {i : Instr} {s : State} {p : State → Bool} (h : (outcome i s).any p = true) :
    ∃ t, exec i s = .next t ∧ p t = true := by
  unfold outcome at h
  cases hs : exec i s <;> simp_all

theorem packet_of {r : State × Status × Option (List Byte)} {p : List Byte → Bool} (h : r.2.2.any p = true) :
    ∃ u st q, r = (u, st, some q) ∧ p q = true := by
  obtain ⟨u, st, o⟩ := r
  cases o <;> simp_all

theorem lowestIndex_of {α : Type} {l : List α} {p : α → Prop} [DecidablePred p] {i : Nat}
    (h : l.findIdx? (fun e => decide (p e)) = some i) : LowestIndex l p i := by
  rw [List.findIdx?_eq_some_iff_getElem] at h
  obtain ⟨hi, hp, hn⟩ := h
  refine ⟨⟨l[i], List.getElem?_eq_getElem hi, by simpa using hp⟩, fun j e hj he => ?_⟩
  have hjl : j < l.length := Nat.lt_trans hj hi
  rw [List.getElem?_eq_getElem hjl] at he
  have := hn j hj
  simp_all

/-! ### Well-formedness: every check refuses an ill-formed record (93_implementation_defined.md U1, U11; log 2) -/

theorem test_reference_legal : Params.reference.legal = true ∧ small.legal = true := by decide

theorem test_capacities_checked :
    ({ small with arpCapacity := 0 } : Params).capacitiesOk = false
      ∧ ({ small with rqPool := 0 } : Params).capacitiesOk = false
      ∧ ({ small with pmapCapacity := 0 } : Params).capacitiesOk = false := by decide

theorem test_ages_checked :
    ({ small with arpMaxAge := 32767 } : Params).agesOk = false
      ∧ ({ small with arpStaticAge := 0#16 } : Params).agesOk = false := by decide

theorem test_ticks_checked :
    ({ small with rqLife := 0#32 } : Params).ticksOk = false
      ∧ ({ small with pmapCloseTicks := 0#16 } : Params).ticksOk = false := by decide

theorem test_backoff_checked :
    ({ small with dhcpBackoffInit := 0#16 } : Params).backoffOk = false
      ∧ ({ small with dhcpBackoffInit := 65#16 } : Params).backoffOk = false
      ∧ ({ small with dhcpBackoffMax := 32768#16 } : Params).backoffOk = false := by decide

theorem test_frames_checked :
    ({ small with bufCap := 1513 } : Params).framesOk = false
      ∧ ({ small with ethMinPacket := 1515 } : Params).framesOk = false
      ∧ ({ small with ethMaxPacket := 302, dhcpMsgLen := 0 } : Params).framesOk = false
      ∧ ({ small with dhcpMsgLen := 1473 } : Params).framesOk = false
      ∧ ({ small with ethMaxPacket := 65536, bufCap := 65536 } : Params).framesOk = false := by decide

theorem test_illegal_record_refused : ({ small with rqLife := 0#32 } : Params).legal = false := by decide

/-! ### Decoding: the opcode map of 30_encoding.md R81, written out in bits -/

theorem test_decode_bridge :
    decode [0b00000001#8] = .ok .attach ∧ decode [0b00000010#8] = .ok .detach ∧ decode [0b00000011#8] = .ok .tick
      ∧ decode [0b00000100#8] = .ok .rx ∧ decode [0b00000101#8] = .ok .tx
      ∧ decode [0b00001000#8] = .ok .csrWr ∧ decode [0b00001001#8] = .ok .csrRd := by decide

theorem test_decode_checksum :
    decode [0b00010000#8] = .ok .csum ∧ decode [0b00010001#8] = .ok .csadj := by decide

theorem test_decode_arp :
    decode [0b00100000#8] = .ok .arpLookup ∧ decode [0b00100001#8] = .ok .arpUpdate
      ∧ decode [0b00100010#8] = .ok .arpAge ∧ decode [0b00100011#8] = .ok .arpReq
      ∧ decode [0b00100100#8] = .ok .arpRx := by decide

theorem test_decode_retry_queue :
    decode [0b00110000#8] = .ok .rqEnq ∧ decode [0b00110001#8] = .ok .rqTick
      ∧ decode [0b00110010#8] = .ok .rqFlush := by decide

theorem test_decode_translator :
    decode [0b01000000#8] = .ok .xlOut ∧ decode [0b01000001#8] = .ok .xlIn
      ∧ decode [0b01000010#8] = .ok .pmTick := by decide

theorem test_decode_dhcp :
    decode [0b01010000#8] = .ok .dhTick ∧ decode [0b01010001#8] = .ok .dhRx
      ∧ decode [0b01010010#8] = .ok .dhRel := by decide

/-- 30_encoding.md R83 and R80: reserved opcodes, no byte, two bytes. -/
theorem test_decode_refuses :
    decode [0x06#8] = .error (.reservedOpcode 0x06#8) ∧ decode [0xFF#8] = .error (.reservedOpcode 0xFF#8)
      ∧ decode [] = .error (.wrongLength 0) ∧ decode [0x01#8, 0x01#8] = .error (.wrongLength 2) := by decide

theorem test_table_word : decodeTableWord 8 0x24 = some .arpRx ∧ decodeTableWord 8 0x25 = none := by decide

/-- The command placed by `withFetchWord` is the one the next step runs (V-BR-8 for the reserved one). -/
theorem test_fetch :
    step (State.reset.withFetchWord 8 0x06) = .next (({ State.reset with
      port := { State.reset.port with cmd := 0x06#8, status := 7#8 } } : State)) := by rfl

/-! ### The commands, with results of spec/95_test_vectors.md -/

/-- V-BR-2. -/
theorem test_attach :
    (outcome .attach down0).map (fun t => (t.port.status, t.events)) = some (0#8, [.setFilter (mac 0xAA) []]) := by
  decide +kernel

/-- V-BR-1. -/
theorem test_detach_while_detached : (outcome .detach down0).map (·.port.status) = some 5#8 := by decide +kernel

/-- V-BR-7. -/
theorem test_tick :
    (outcome .tick { up with
      arp := [⟨ip 10 0 0 1, mac 1, 0#16⟩, ArpEntry.zero], rq := [⟨true, zeros 30, 30#16, ip 10 0 0 7, 1000#32⟩, RqSlot.zero],
      pmap := [⟨1025#16, 21#16, 3#16, 0xFFFFFFFC#32, 1001#32⟩, PmapEntry.zero] }).map
        (fun t => (t.arp.map (·.age), t.rq.map (·.life), t.pmap.map (·.closeTimer), t.events))
      = some ([1#16, 0#16], [999#32, 0#32], [2#16, 0#16], []) := by decide +kernel

/-- The output of V-XL-1 and the input of V-XL-1. -/
def outPacket : List Byte :=
  hex [0x45, 0x00, 0x00, 0x1E, 0x00, 0x00, 0x00, 0x00, 0x40, 0x11, 0x66, 0xCA, 0x0A, 0x00, 0x00, 0x05, 0x0A,
    0x00, 0x00, 0x01, 0x04, 0x00, 0x00, 0x07, 0x00, 0x0A, 0x7F, 0x64, 0x68, 0x69]
def hostPacket : List Byte :=
  hex [0x45, 0x00, 0x00, 0x1E, 0x00, 0x00, 0x00, 0x00, 0x40, 0x11, 0x66, 0xC6, 0x0A, 0x00, 0x00, 0x09, 0x0A,
    0x00, 0x00, 0x01, 0x04, 0x00, 0x00, 0x07, 0x00, 0x0A, 0x7F, 0x60, 0x68, 0x69]

/-- The input and the output of V-XL-2. -/
def inPacket : List Byte :=
  hex [0x45, 0x00, 0x00, 0x1E, 0x00, 0x00, 0x00, 0x00, 0x40, 0x11, 0x66, 0xCA, 0x0A, 0x00, 0x00, 0x01, 0x0A,
    0x00, 0x00, 0x05, 0x00, 0x07, 0x04, 0x00, 0x00, 0x0A, 0x7F, 0x64, 0x68, 0x69]
def deliveredPacket : List Byte :=
  hex [0x45, 0x00, 0x00, 0x1E, 0x00, 0x00, 0x00, 0x00, 0x40, 0x11, 0x66, 0xC6, 0x0A, 0x00, 0x00, 0x01, 0x0A,
    0x00, 0x00, 0x09, 0x00, 0x07, 0x04, 0x00, 0x00, 0x0A, 0x7F, 0x60, 0x68, 0x69]

/-- The frame of V-BR-4. -/
def inFrame : List Byte := hex [0x02, 0x00, 0x00, 0x00, 0x00, 0xAA, 0x02, 0x00, 0x00, 0x00, 0x00, 0x01, 0x08, 0x00] ++ inPacket ++ zeros 16

/-- The base state of section 5: the translator active for `10.0.0.9`. -/
def xl : State := { up with ident := { up.ident with externalHostIp := ip 10 0 0 9 } }

/-- The translator active, short frames. -/
def xlShort : State := { xl with params := short }

/-- V-BR-5. -/
theorem test_rx_delivers_translated :
    (outcome .rx (withA xl inFrame)).map (·.events) = some [.hostDeliver deliveredPacket] := by decide +kernel

/-- V-BR-3: a packet for `10.0.0.6`. -/
theorem test_rx_discards_foreign :
    (outcome .rx (withA up (inFrame.set 33 6#8))).map (fun t => (t.port.status, t.stats.rxDiscard)) = some (4#8, 1#32) := by
  decide +kernel

/-- V-BR-6 (c). -/
theorem test_tx_fails :
    (outcome .tx (withA { xl with arp := [⟨ip 10 0 0 1, mac 1, 0#16⟩, ArpEntry.zero], answers := [.err] } hostPacket)).map
        (fun t => (t.port.status, t.events, t.stats.txFail, t.stats.rfnm))
      = some (3#8, [.send (hex [0x02, 0x00, 0x00, 0x00, 0x00, 0x01, 0x02, 0x00, 0x00, 0x00, 0x00, 0xAA, 0x08, 0x00] ++ outPacket ++ zeros 16)], 1#32, 1#32) := by
  decide +kernel

/-- V-BR-6 (a). -/
theorem test_tx_without_address :
    (outcome .tx (withA { xl with ident := { xl.ident with ownIp := 0#32 } } hostPacket)).map
        (fun t => (t.port.status, t.stats.txDiscard, t.stats.rfnm)) = some (10#8, 1#32, 1#32) := by decide +kernel

/-- Section 8: only bit 1 of `CTRL` is taken. -/
theorem test_csrwr_ctrl :
    (outcome .csrWr (csr State.reset 0x05#8 0xFFFFFFFF#48)).map (·.ctrl) = some ⟨false, true⟩ := by decide +kernel

/-- 45_bridge.md R305: `own_ip` is immutable while attached. -/
theorem test_csrwr_attached :
    (outcome .csrWr (csr up 0x01#8 7#48)).map (fun t => (t.port.status, t.ident.ownIp)) = some (6#8, ip 10 0 0 5) := by
  decide +kernel

/-- Section 8. -/
theorem test_csrrd_own_mac :
    (outcome .csrRd (csr down0 0x00#8 0#48)).map (·.port.resVal) = some 0x0200000000AA#48 := by decide +kernel

/-- 45_bridge.md R306: 0x2A is no register. -/
theorem test_csrrd_unknown : (outcome .csrRd (csr up 0x2A#8 0#48)).map (·.port.status) = some 7#8 := by decide +kernel

/-- V-CS-2. -/
theorem test_csum :
    (outcome .csum (withA State.reset (hex [0x45, 0x00, 0x00, 0x1C]))).map (·.port.resCsum) = some 0xBAE3#16 := by
  decide +kernel

/-- V-CS-4: odd length. -/
theorem test_csum_odd :
    (outcome .csum (withA State.reset (hex [1, 2, 3]))).map (·.port.resCsum) = some 0xFBFD#16 := by decide +kernel

/-- V-CS-9. -/
theorem test_csadj :
    (outcome .csadj (withB (withA { State.reset with port := { State.reset.port with opCsum := 0xBAE3#16 } }
      (hex [0x00, 0x1C])) (hex [0x00, 0x54]))).map (·.port.resCsum) = some 0xBAAB#16 := by decide +kernel

/-- V-CS-16: odd lengths. -/
theorem test_csadj_odd :
    (outcome .csadj (withB (withA { State.reset with port := { State.reset.port with opCsum := 0x1234#16 } }
      (hex [0xAA])) (hex [0xAA, 0xBB, 0xCC]))).map (·.port.resCsum) = some 0x4578#16 := by decide +kernel

/-- V-ARP-1. -/
theorem test_arp_lookup_hit :
    (outcome .arpLookup (ops { up with arp := [ArpEntry.zero, ⟨ip 10 0 0 1, mac 1, 0#16⟩] } (ip 10 0 0 1) 0#48 0#16)).map
      (fun t => (t.port.status, t.port.resMac)) = some (0#8, mac 1) := by decide +kernel

/-- V-ARP-2: address 0 never matches. -/
theorem test_arp_lookup_zero : (outcome .arpLookup up).map (·.port.status) = some 1#8 := by decide +kernel

/-- V-ARP-3, the tie: the lowest index among the oldest. -/
theorem test_arp_update_evicts :
    (outcome .arpUpdate (ops { up with arp := [⟨ip 10 0 1 1, mac 0x100, 7#16⟩, ⟨ip 10 0 1 2, mac 0x101, 7#16⟩] }
      (ip 10 0 2 1) (mac 0x201) 0#16)).map (·.arp)
      = some [⟨ip 10 0 2 1, mac 0x201, 0#16⟩, ⟨ip 10 0 1 2, mac 0x101, 7#16⟩] := by decide +kernel

/-- V-ARP-4 (b). -/
theorem test_arp_update_no_slot :
    (outcome .arpUpdate (ops { up with arp := [⟨ip 10 0 1 1, mac 0x100, 0xFFFF#16⟩, ⟨ip 10 0 1 2, mac 0x101, 0xFFFF#16⟩] }
      (ip 10 0 2 1) (mac 0x201) 0#16)).map (fun t => (t.port.status, t.stats.arpNospace)) = some (11#8, 1#32) := by
  decide +kernel

/-- V-ARP-7, the 101st tick. -/
theorem test_arp_age :
    (outcome .arpAge { up with arp := [⟨ip 10 0 0 1, mac 1, 100#16⟩, ⟨ip 10 0 0 2, mac 2, 0xFFFF#16⟩] }).map (·.arp)
      = some [ArpEntry.zero, ⟨ip 10 0 0 2, mac 2, 0xFFFF#16⟩] := by decide +kernel

/-- V-ARP-7, the 100th tick. -/
theorem test_arp_age_keeps :
    (outcome .arpAge { up with arp := [⟨ip 10 0 0 1, mac 1, 99#16⟩, ArpEntry.zero] }).map (·.arp)
      = some [⟨ip 10 0 0 1, mac 1, 100#16⟩, ArpEntry.zero] := by decide +kernel

/-- V-ARP-5. -/
theorem test_arp_req :
    (outcome .arpReq (ops up (ip 10 0 0 1) 0#48 0#16)).map (·.events) = some [.send (
      hex [0xFF, 0xFF, 0xFF, 0xFF, 0xFF, 0xFF, 0x02, 0x00, 0x00, 0x00, 0x00, 0xAA, 0x08, 0x06, 0x00, 0x01, 0x08,
    0x00, 0x06, 0x04, 0x00, 0x01, 0x02, 0x00, 0x00, 0x00, 0x00, 0xAA, 0x0A, 0x00, 0x00, 0x05, 0x00, 0x00, 0x00,
    0x00, 0x00, 0x00, 0x0A, 0x00, 0x00, 0x01] ++ zeros 18)] := by
  decide +kernel

/-- V-ARP-5 with the answer `err`. -/
theorem test_arp_req_fails :
    (outcome .arpReq (ops { up with answers := [.err] } (ip 10 0 0 1) 0#48 0#16)).map
      (fun t => (t.port.status, t.stats.txFail)) = some (3#8, 1#32) := by decide +kernel

/-- The request of V-ARP-6. -/
def arpFrame : List Byte :=
  hex [0xFF, 0xFF, 0xFF, 0xFF, 0xFF, 0xFF, 0x02, 0x00, 0x00, 0x00, 0x00, 0x01, 0x08, 0x06, 0x00, 0x01, 0x08,
    0x00, 0x06, 0x04, 0x00, 0x01, 0x02, 0x00, 0x00, 0x00, 0x00, 0x01, 0x0A, 0x00, 0x00, 0x01, 0x00, 0x00, 0x00,
    0x00, 0x00, 0x00, 0x0A, 0x00, 0x00, 0x05] ++ zeros 18

/-- V-ARP-6. -/
theorem test_arp_rx :
    (outcome .arpRx (withA up arpFrame)).map (fun t => (t.arp, t.events))
      = some ([⟨ip 10 0 0 1, mac 1, 0#16⟩, ArpEntry.zero], [.send (
        hex [0x02, 0x00, 0x00, 0x00, 0x00, 0x01, 0x02, 0x00, 0x00, 0x00, 0x00, 0xAA, 0x08, 0x06, 0x00, 0x01, 0x08,
    0x00, 0x06, 0x04, 0x00, 0x02, 0x02, 0x00, 0x00, 0x00, 0x00, 0xAA, 0x0A, 0x00, 0x00, 0x05, 0x02, 0x00, 0x00,
    0x00, 0x00, 0x01, 0x0A, 0x00, 0x00, 0x01] ++ zeros 18)]) := by
  decide +kernel

/-- V-ARP-6: 41 bytes. -/
theorem test_arp_rx_short :
    (outcome .arpRx (withA up (arpFrame.take 41))).map (fun t => (t.port.status, t.stats.rxDiscard, t.arp))
      = some (4#8, 1#32, [ArpEntry.zero, ArpEntry.zero]) := by decide +kernel

/-- The packet `Pq` of section 4. -/
def pq : List Byte :=
  hex [0x45, 0x00, 0x00, 0x1E, 0x00, 0x00, 0x00, 0x00, 0x40, 0x11, 0x66, 0xC4, 0x0A, 0x00, 0x00, 0x05, 0x0A,
    0x00, 0x00, 0x07, 0x04, 0x00, 0x00, 0x07, 0x00, 0x0A, 0x7F, 0x5E, 0x68, 0x69]

/-- V-RQ-1; and 42_retry_queue.md R172: the packet is all of `BUF_A[0:LEN_A]`, bytes after its total length too (log 9). -/
theorem test_rq_enq :
    (outcome .rqEnq (withA (ops up (ip 10 0 0 7) 0#48 0#16) pq)).map (fun t => (t.port.status, t.rq))
        = some (8#8, [⟨true, pq, 30#16, ip 10 0 0 7, 1000#32⟩, RqSlot.zero])
      ∧ (outcome .rqEnq (withA (ops up (ip 10 0 0 7) 0#48 0#16) (pq ++ [7#8]))).map (·.rq)
        = some [⟨true, pq ++ [7#8], 31#16, ip 10 0 0 7, 1000#32⟩, RqSlot.zero] := by decide +kernel

/-- V-RQ-2 and V-RQ-3: off the subnet the gateway is the next hop; a full pool is refused. -/
theorem test_rq_enq_full :
    (outcome .rqEnq (withA (ops { up with rq := [⟨true, pq, 30#16, ip 10 0 0 7, 5#32⟩] } (ip 192 0 2 7) 0#48 0#16) pq)).map
      (fun t => (t.port.status, t.stats.rqFull, t.events)) = some (2#8, 1#32, []) := by decide +kernel

/-- V-RQ-5, the 999th and the 1000th tick. -/
theorem test_rq_tick :
    (outcome .rqTick { up with rq := [⟨true, pq, 30#16, ip 10 0 0 7, 2#32⟩, ⟨true, pq, 30#16, ip 10 0 0 7, 1#32⟩] }).map
      (fun t => (t.rq, t.stats.rqExpired))
      = some ([⟨true, pq, 30#16, ip 10 0 0 7, 1#32⟩, RqSlot.zero], 1#32) := by decide +kernel

/-- V-RQ-6, its first send, answered `err`. -/
theorem test_rq_flush :
    (outcome .rqFlush (ops { up with
      answers := [.err],
      rq := [⟨true, hex [0x45, 0x00, 0x00, 0x1D, 0x00, 0x00, 0x00, 0x00, 0x40, 0x11, 0xAE, 0xC4, 0x0A, 0x00, 0x00, 0x05, 0xC0,
    0x00, 0x02, 0x07, 0x04, 0x00, 0x00, 0x07, 0x00, 0x09, 0xEE, 0xC8, 0x41], 29#16,
        ip 10 0 0 1, 9#32⟩, ⟨true, pq, 30#16, ip 10 0 0 2, 9#32⟩] } (ip 10 0 0 1) (mac 1) 0#16)).map
      (fun t => (t.port.status, t.stats.txFail, t.rq, t.events))
      = some (3#8, 1#32, [RqSlot.zero, ⟨true, pq, 30#16, ip 10 0 0 2, 9#32⟩], [.send (
        hex [0x02, 0x00, 0x00, 0x00, 0x00, 0x01, 0x02, 0x00, 0x00, 0x00, 0x00, 0xAA, 0x08, 0x00, 0x45, 0x00, 0x00,
    0x1D, 0x00, 0x00, 0x00, 0x00, 0x40, 0x11, 0xAE, 0xC4, 0x0A, 0x00, 0x00, 0x05, 0xC0, 0x00, 0x02, 0x07, 0x04,
    0x00, 0x00, 0x07, 0x00, 0x09, 0xEE, 0xC8, 0x41] ++ zeros 17)]) := by
  decide +kernel

/-- V-XL-1; and 43_translator.md R190: an inactive translator passes a packet longer than `IP_MAX_LEN` too (log 9). -/
theorem test_xl_out :
    (outcome .xlOut (withA xl hostPacket)).map (fun t => (t.port.status, outBytes t)) = some (0#8, outPacket)
      ∧ (outcome .xlOut (withA { up with params := short } (put16 hostPacket 2 387#16 ++ zeros 357))).map
          (fun t => (t.port.status, t.port.lenOut, t.stats.txDiscard)) = some (0#8, 387#16, 0#32) := by
  decide +kernel

/-- The state, the input and the output of V-XL-4. -/
def ftp : State :=
  { up with ident := { up.ident with ownIp := ip 192 168 1 20, externalHostIp := ip 10 0 0 5 } }
def portPacket : List Byte :=
  hex [0x45, 0x00, 0x00, 0x3D, 0x00, 0x00, 0x00, 0x00, 0x40, 0x06, 0xAF, 0x0D, 0x0A, 0x00, 0x00, 0x05, 0xC0,
    0xA8, 0x01, 0x01, 0x04, 0x01, 0x00, 0x15, 0x00, 0x00, 0x03, 0xE8, 0x00, 0x00, 0x13, 0x88, 0x50, 0x18, 0x20,
    0x00, 0x82, 0x94, 0x00, 0x00, 0x50, 0x4F, 0x52, 0x54, 0x20, 0x31, 0x30, 0x2C, 0x30, 0x2C, 0x30, 0x2C, 0x35,
    0x2C, 0x32, 0x30, 0x30, 0x2C, 0x31, 0x0D, 0x0A]
def portOut : List Byte :=
  hex [0x45, 0x00, 0x00, 0x41, 0x00, 0x00, 0x00, 0x00, 0x40, 0x06, 0xF7, 0x51, 0xC0, 0xA8, 0x01, 0x14, 0xC0,
    0xA8, 0x01, 0x01, 0x04, 0x01, 0x00, 0x15, 0x00, 0x00, 0x03, 0xE8, 0x00, 0x00, 0x13, 0x88, 0x50, 0x18, 0x20,
    0x00, 0x6C, 0x5E, 0x00, 0x00, 0x50, 0x4F, 0x52, 0x54, 0x20, 0x31, 0x39, 0x32, 0x2C, 0x31, 0x36, 0x38, 0x2C,
    0x31, 0x2C, 0x32, 0x30, 0x2C, 0x32, 0x30, 0x30, 0x2C, 0x31, 0x0D, 0x0A]

/-- V-XL-4. -/
theorem test_xl_out_port :
    (outcome .xlOut (withA ftp portPacket)).map (fun t => (outBytes t, t.pmap))
      = some (portOut, [⟨1025#16, 21#16, 0#16, 4#32, 1000#32⟩, PmapEntry.zero]) := by decide +kernel

/-- V-XL-2. -/
theorem test_xl_in :
    (outcome .xlIn (withA xl inPacket)).map (fun t => (t.port.status, outBytes t)) = some (0#8, deliveredPacket) := by
  decide +kernel

/-- The flow entry V-XL-4 leaves, and the ACK of V-XL-5 (a). -/
def flow : State := { ftp with pmap := [PmapEntry.zero, ⟨1025#16, 21#16, 0#16, 4#32, 1000#32⟩] }
def ackPacket : List Byte :=
  hex [0x45, 0x00, 0x00, 0x28, 0x00, 0x00, 0x00, 0x00, 0x40, 0x06, 0xF7, 0x6A, 0xC0, 0xA8, 0x01, 0x01, 0xC0,
    0xA8, 0x01, 0x14, 0x00, 0x15, 0x04, 0x01, 0x00, 0x00, 0x13, 0x88, 0x00, 0x00, 0x04, 0x04, 0x50, 0x10, 0x20,
    0x00, 0xF0, 0xCC, 0x00, 0x00]

/-- V-XL-5 (a). -/
theorem test_xl_in_ack :
    (outcome .xlIn (withA flow ackPacket)).map outBytes = some (
      hex [0x45, 0x00, 0x00, 0x28, 0x00, 0x00, 0x00, 0x00, 0x40, 0x06, 0xAF, 0x22, 0xC0, 0xA8, 0x01, 0x01, 0x0A,
    0x00, 0x00, 0x05, 0x00, 0x15, 0x04, 0x01, 0x00, 0x00, 0x13, 0x88, 0x00, 0x00, 0x04, 0x00, 0x50, 0x10, 0x20,
    0x00, 0xA8, 0x88, 0x00, 0x00]) := by
  decide +kernel

/-- V-XL-11, the ninth and the tenth tick. -/
theorem test_pm_tick :
    (outcome .pmTick { up with
      pmap := [⟨1025#16, 21#16, 2#16, 4#32, 1000#32⟩, ⟨1025#16, 22#16, 1#16, 4#32, 1000#32⟩] }).map (·.pmap)
      = some [⟨1025#16, 21#16, 1#16, 4#32, 1000#32⟩, PmapEntry.zero] := by decide +kernel

/-- The state of section 6. -/
def dh : State :=
  { up with
    ident := ⟨mac 0xAA, 0#32, 0#32, 0#32, 0#32⟩, ctrl := ⟨true, true⟩,
    port := { up.port with xidIn := 0x12345678#32 } }

/-- The frames of V-DH-1, V-DH-2 (OFFER) and V-DH-4 (NAK). -/
def discoverFrame : List Byte :=
  hex [0xFF, 0xFF, 0xFF, 0xFF, 0xFF, 0xFF, 0x02, 0x00, 0x00, 0x00, 0x00, 0xAA, 0x08, 0x00, 0x45, 0x00, 0x01,
    0x48, 0x00, 0x00, 0x00, 0x00, 0x40, 0x11, 0x79, 0xA6, 0x00, 0x00, 0x00, 0x00, 0xFF, 0xFF, 0xFF, 0xFF, 0x00,
    0x44, 0x00, 0x43, 0x01, 0x34, 0x97, 0x8A, 0x01, 0x01, 0x06, 0x00, 0x12, 0x34, 0x56, 0x78] ++ zeros 20 ++ hex
    [0x02, 0x00, 0x00, 0x00, 0x00, 0xAA] ++ zeros 202 ++ hex [0x63, 0x82, 0x53, 0x63, 0x35, 0x01, 0x01, 0x37,
    0x02, 0x01, 0x03, 0xFF] ++ zeros 52
def offerFrame : List Byte :=
  hex [0x02, 0x00, 0x00, 0x00, 0x00, 0xAA, 0x02, 0x00, 0x00, 0x00, 0x00, 0x01, 0x08, 0x00, 0x45, 0x00, 0x01,
    0x48, 0x00, 0x01, 0x00, 0x00, 0x40, 0x11, 0x65, 0x72, 0x0A, 0x00, 0x00, 0x01, 0x0A, 0x00, 0x00, 0x32, 0x00,
    0x43, 0x00, 0x44, 0x01, 0x34, 0x58, 0xCF, 0x02, 0x01, 0x06, 0x00, 0x12, 0x34, 0x56, 0x78] ++ zeros 8 ++ hex
    [0x0A, 0x00, 0x00, 0x32] ++ zeros 8 ++ hex [0x02, 0x00, 0x00, 0x00, 0x00, 0xAA] ++ zeros 202 ++ hex [0x63,
    0x82, 0x53, 0x63, 0x35, 0x01, 0x02, 0x36, 0x04, 0x0A, 0x00, 0x00, 0x01, 0x33, 0x04, 0x00, 0x00, 0x0E, 0x10,
    0x01, 0x04, 0xFF, 0xFF, 0xFF, 0x00, 0x03, 0x04, 0x0A, 0x00, 0x00, 0x01, 0xFF] ++ zeros 32
def nakFrame : List Byte :=
  hex [0x02, 0x00, 0x00, 0x00, 0x00, 0xAA, 0x02, 0x00, 0x00, 0x00, 0x00, 0x01, 0x08, 0x00, 0x45, 0x00, 0x01,
    0x48, 0x00, 0x01, 0x00, 0x00, 0x40, 0x11, 0x6F, 0xA4, 0x0A, 0x00, 0x00, 0x01, 0xFF, 0xFF, 0xFF, 0xFF, 0x00,
    0x43, 0x00, 0x44, 0x01, 0x34, 0x87, 0x81, 0x02, 0x01, 0x06, 0x00, 0x12, 0x34, 0x56, 0x78] ++ zeros 20 ++ hex
    [0x02, 0x00, 0x00, 0x00, 0x00, 0xAA] ++ zeros 202 ++ hex [0x63, 0x82, 0x53, 0x63, 0x35, 0x01, 0x06, 0x36,
    0x04, 0x0A, 0x00, 0x00, 0x01, 0xFF] ++ zeros 50

/-- The ACK of V-DH-3: the OFFER with message type 5 and its UDP checksum. -/
def ackFrame : List Byte := put16 (offerFrame.set 284 5#8) 40 0x55CF#16

/-- V-DH-1. -/
theorem test_dh_tick :
    (outcome .dhTick dh).map (fun t => (t.events, t.dhcp.state, t.dhcp.retryWait))
      = some ([.send discoverFrame], .selecting, 4#16) := by decide +kernel

/-- V-DH-7, the step from tick 15 to 16: expiry. -/
theorem test_dh_tick_expires :
    (outcome .dhTick { dh with
      ident := { dh.ident with ownIp := ip 10 0 0 50 }, dhcp := { dh.dhcp with state := .rebinding, leaseSeconds := 1#32 } }).map
      (fun t => (t.dhcp.state, t.ident.ownIp, t.events)) = some (.off, 0#32, []) := by decide +kernel

/-- The states after V-DH-1, V-DH-2, V-DH-3. -/
def selecting : State := { dh with dhcp := { Dhcp.zero with state := .selecting, transactionId := 0x12345678#32 } }
def requesting : State :=
  { dh with dhcp := { Dhcp.zero with
    state := .requesting, transactionId := 0x12345678#32, address := ip 10 0 0 50, dhcpServer := ip 10 0 0 1,
    retryWait := 4#16, retryBackoff := 4#16 } }
def bound : State :=
  { dh with
    ident := ⟨mac 0xAA, ip 10 0 0 50, ip 255 255 255 0, ip 10 0 0 1, 0#32⟩,
    arp := [⟨ip 10 0 0 1, mac 1, 0xFFFF#16⟩, ArpEntry.zero],
    dhcp := ⟨.bound, 0x12345678#32, 3600#32, 1800#32, 3150#32, 0#16, 4#16, ip 10 0 0 50, ip 255 255 255 0, ip 10 0 0 1,
      ip 10 0 0 1⟩ }

/-- V-DH-2, the REQUEST. -/
theorem test_dh_rx_offer :
    (outcome .dhRx (withA selecting offerFrame)).map (fun t => (t.dhcp.address, t.events)) = some (ip 10 0 0 50, [.send (
      hex [0xFF, 0xFF, 0xFF, 0xFF, 0xFF, 0xFF, 0x02, 0x00, 0x00, 0x00, 0x00, 0xAA, 0x08, 0x00, 0x45, 0x00, 0x01,
    0x48, 0x00, 0x00, 0x00, 0x00, 0x40, 0x11, 0x79, 0xA6, 0x00, 0x00, 0x00, 0x00, 0xFF, 0xFF, 0xFF, 0xFF, 0x00,
    0x44, 0x00, 0x43, 0x01, 0x34, 0x5A, 0x0E, 0x01, 0x01, 0x06, 0x00, 0x12, 0x34, 0x56, 0x78] ++ zeros 20 ++ hex
    [0x02, 0x00, 0x00, 0x00, 0x00, 0xAA] ++ zeros 202 ++ hex [0x63, 0x82, 0x53, 0x63, 0x35, 0x01, 0x03, 0x32,
    0x04, 0x0A, 0x00, 0x00, 0x32, 0x36, 0x04, 0x0A, 0x00, 0x00, 0x01, 0x37, 0x02, 0x01, 0x03, 0xFF] ++ zeros 40)]) := by
  decide +kernel

/-- V-DH-3: the ACK leaves the state `bound`. -/
theorem test_dh_rx_ack :
    (outcome .dhRx (withA requesting ackFrame)).map (fun t => (t.ident, t.dhcp, t.arp))
      = some (bound.ident, bound.dhcp, bound.arp) := by decide +kernel

/-- V-DH-9, the RELEASE. -/
theorem test_dh_rel :
    (outcome .dhRel bound).map (fun t => (t.dhcp.state, t.ctrl.dhcpWant, t.events)) = some (.off, false, [.send (
      hex [0x02, 0x00, 0x00, 0x00, 0x00, 0x01, 0x02, 0x00, 0x00, 0x00, 0x00, 0xAA, 0x08, 0x00, 0x45, 0x00, 0x01,
    0x48, 0x00, 0x00, 0x00, 0x00, 0x40, 0x11, 0x65, 0x73, 0x0A, 0x00, 0x00, 0x32, 0x0A, 0x00, 0x00, 0x01, 0x00,
    0x44, 0x00, 0x43, 0x01, 0x34, 0x73, 0x1D, 0x01, 0x01, 0x06, 0x00, 0x12, 0x34, 0x56, 0x78, 0x00, 0x00, 0x00,
    0x00, 0x0A, 0x00, 0x00, 0x32] ++ zeros 12 ++ hex [0x02, 0x00, 0x00, 0x00, 0x00, 0xAA] ++ zeros 202 ++ hex
    [0x63, 0x82, 0x53, 0x63, 0x35, 0x01, 0x07, 0x36, 0x04, 0x0A, 0x00, 0x00, 0x01, 0xFF] ++ zeros 50)]) := by
  decide +kernel

/-- 45_bridge.md R293: `DETACH` of a bound interface leaves it detached with its DHCP registers at 0. -/
theorem test_detach :
    (outcome .detach bound).map (fun t => (t.ctrl, t.dhcp, t.ident.ownIp, t.events.length))
      = some (⟨false, false⟩, Dhcp.zero, 0#32, 1) := by decide +kernel

/-! ### Witnesses: for each statement that has hypotheses, states and operands that meet them, clause by clause -/

theorem witness_EncodeDecodeAgree : decode [0x52#8] = .ok .dhRel ∧ decode [0x01#8] = .ok .attach := by decide

theorem witness_ReservedOpcodeOnlySetsStatus :
    ∀ w ∈ [0x00, 0x06, 0x07, 0x0A, 0x0F, 0x12, 0x1F, 0x25, 0x2F, 0x33, 0x3F, 0x43, 0x4F, 0x53, 0xFF],
      (up.writeCmd (BitVec.ofNat 8 w)).cmdPending = true
        ∧ reservedByList (up.writeCmd (BitVec.ofNat 8 w)).port.cmd.toNat := by
  unfold reservedByList
  decide +kernel

theorem witness_StepRunsDecodedCommand :
    (up.writeCmd 0x24#8).cmdPending = true ∧ decode [(up.writeCmd 0x24#8).port.cmd] = .ok .arpRx := by decide +kernel

/-- Every action; the first write of each buffer ends at `BUF_CAP`, the second one byte above it. -/
theorem witness_IdleStepTakesEnvironmentAction :
    (up.cmdPending = false ∧ up.env = [])
      ∧ (∀ x ∈ [EnvAction.opIp 1#32, .opMac 1#48, .opAge 1#16, .opCsum 1#16, .opReg 1#8, .opVal 1#48, .xidIn 1#32, .lenA 1#16,
            .lenB 1#16, .sendAnswers [.err], .cmd 0x03#8, .bufA 1513 [7#8], .bufA 1513 [7#8, 8#8], .bufB 1513 [7#8],
            .bufB 1513 [7#8, 8#8]],
          let s : State := { up with env := [x, .cmd 0x03#8] }
          s.cmdPending = false ∧ s.env = x :: [.cmd 0x03#8])
      ∧ 1513 + [7#8].length ≤ up.params.bufCap ∧ up.params.bufCap < 1513 + [7#8, 8#8].length := by
  decide +kernel

theorem witness_NoCommandStopsTheEngine :
    (up.writeCmd 0x05#8).params.legal = true ∧ (up.writeCmd 0x05#8).cmdPending = true := by decide +kernel

theorem witness_BufferWriteReplacesExactlyThoseBytes : Memory.wf [(3, 1#8), (5, 2#8)] := by decide

theorem witness_CsumStoresComplementOfFoldedSum :
    (lenA up 0).port.lenA.toNat ≤ (lenA up 0).params.bufCap
      ∧ (lenA up 1514).port.lenA.toNat ≤ (lenA up 1514).params.bufCap := by decide +kernel

/-- Clause (e) with both words at an end, and clause (f) with the field in the last two bytes. -/
theorem witness_ChecksumCornerCases :
    (([] : List Byte).length % 2 = 0 ∧ (hex [1, 2]).length % 2 = 0)
      ∧ (4 % 2 = 0 ∧ 4 + 2 ≤ (hex [0x45, 0, 0, 0x1C, 0, 0]).length ∧ be16 (hex [0x45, 0, 0, 0x1C, 0, 0]) 4 = 0#16)
      ∧ (2 % 2 = 0 ∧ 2 + 2 ≤ (hex [0xFF, 0xFF, 0, 0]).length ∧ be16 (hex [0xFF, 0xFF, 0, 0]) 2 = 0#16
          ∧ checksum (hex [0xFF, 0xFF, 0, 0]) = 0#16) := by decide +kernel

theorem witness_CsadjStoresAdjustedChecksum :
    ((lenB (lenA up 1514) 1514).port.lenA.toNat ≤ up.params.bufCap
        ∧ (lenB (lenA up 1514) 1514).port.lenB.toNat ≤ up.params.bufCap)
      ∧ (hex [1]).length % 2 = 1 := by decide +kernel

/-- The three vectors V-CS-17: to the end with an odd change, a removal at the end, an even change in the middle. -/
theorem witness_AdjustAgreesWithFromScratch :
    (2 ≤ 4 ∧ 4 ≤ (hex [1, 2, 3, 4]).length ∧ 2 % 2 = 0 ∧ 4 = (hex [1, 2, 3, 4]).length)
      ∧ (2 ≤ 3 ∧ 3 ≤ (hex [1, 2, 3, 4]).length ∧ ((hex [0xAA, 0xBB, 0xCC]).length + (3 - 2)) % 2 = 0)
      ∧ (0 ≤ 0 ∧ 0 ≤ ([] : List Byte).length ∧ 0 % 2 = 0 ∧ 0 = ([] : List Byte).length) := by decide +kernel

theorem witness_RefusedCommandOnlySetsStatus :
    (down0.ctrl.attached = false ∧ acceptedDetached .dhRel = false)
      ∧ up.ctrl.attached = true
      ∧ (readsBufA .tx = true ∧ (lenA up 1515).ctrl.attached = true
          ∧ (lenA up 1515).params.bufCap < (lenA up 1515).port.lenA.toNat)
      ∧ (readsBufA .csum = true ∧ acceptedDetached .csum = true
          ∧ (lenA down0 1515).params.bufCap < (lenA down0 1515).port.lenA.toNat)
      ∧ ((lenB (lenA up 1514) 1515).port.lenA.toNat ≤ up.params.bufCap
          ∧ up.params.bufCap < (lenB (lenA up 1514) 1515).port.lenB.toNat) := by decide +kernel

/-- An ARP table with the address sought in the last slot, and one full of older and younger entries. -/
def arpSecond : State := ops { up with arp := [⟨ip 10 0 0 2, mac 2, 0#16⟩, ⟨ip 10 0 0 1, mac 1, 0xFFFF#16⟩] } (ip 10 0 0 1) 0#48 5#16

theorem witness_ArpLookupAnswersLowestMatch :
    (arpSecond.ctrl.attached = true ∧ arpSecond.port.opIp ≠ 0#32 ∧ arpSecond.arp[1]? = some ⟨ip 10 0 0 1, mac 1, 0xFFFF#16⟩
        ∧ LowestIndex arpSecond.arp (fun e => e.ip = arpSecond.port.opIp) 1)
      ∧ (up.ctrl.attached = true ∧ up.port.opIp = 0#32)
      ∧ ∀ e ∈ (ops arpSecond (ip 10 0 0 3) 0#48 0#16).arp, e.ip ≠ ip 10 0 0 3 :=
  ⟨⟨by decide, by decide, by decide, lowestIndex_of (by decide)⟩, by decide, by decide⟩

theorem witness_ArpUpdateCases_zero_match_free :
    (up.ctrl.attached = true ∧ up.port.opIp = 0#32)
      ∧ (arpSecond.port.opIp ≠ 0#32 ∧ arpSecond.arp[1]? = some ⟨ip 10 0 0 1, mac 1, 0xFFFF#16⟩
          ∧ LowestIndex arpSecond.arp (fun e => e.ip = arpSecond.port.opIp) 1)
      ∧ (let s := ops { up with arp := [⟨ip 10 0 0 2, mac 2, 0#16⟩, ArpEntry.zero] } (ip 10 0 0 1) (mac 1) 0#16
         s.port.opIp ≠ 0#32 ∧ (∀ e ∈ s.arp, e.ip ≠ s.port.opIp) ∧ LowestIndex s.arp (fun e => e.ip = 0#32) 1) :=
  ⟨by decide, ⟨by decide, by decide, lowestIndex_of (by decide)⟩, ⟨by decide, by decide, lowestIndex_of (by decide)⟩⟩

theorem witness_ArpUpdateCases_evict_nospace :
    (let s := ops { up with arp := [⟨ip 10 0 0 2, mac 2, 0x8000#16⟩, ⟨ip 10 0 0 3, mac 3, 0x7FFF#16⟩] } (ip 10 0 0 1) (mac 1) 0#16
     s.ctrl.attached = true ∧ s.port.opIp ≠ 0#32 ∧ (∀ e ∈ s.arp, e.ip ≠ s.port.opIp ∧ e.ip ≠ 0#32)
       ∧ LowestIndex s.arp (fun e => e.age ≠ s.params.arpStaticAge
            ∧ ∀ f ∈ s.arp, f.age ≠ s.params.arpStaticAge → f.age.toInt ≤ e.age.toInt) 1)
      ∧ (let s := ops { up with arp := [⟨ip 10 0 0 2, mac 2, 0xFFFF#16⟩, ⟨ip 10 0 0 3, mac 3, 0xFFFF#16⟩] } (ip 10 0 0 1) (mac 1) 0#16
         s.ctrl.attached = true ∧ s.port.opIp ≠ 0#32
           ∧ ∀ e ∈ s.arp, e.ip ≠ s.port.opIp ∧ e.ip ≠ 0#32 ∧ e.age = s.params.arpStaticAge) :=
  ⟨⟨by decide, by decide, by decide, lowestIndex_of (by decide +kernel)⟩, by decide⟩

theorem witness_ArpAgeingFreesAfterMaxAge :
    let s : State := { up with arp := [⟨ip 10 0 0 1, mac 1, 0#16⟩, ⟨ip 10 0 0 2, mac 2, 0xFFFF#16⟩] }
    s.ctrl.attached = true ∧ s.params.agesOk = true
      ∧ (s.arp[0]? = some ⟨ip 10 0 0 1, mac 1, 0#16⟩ ∧ ip 10 0 0 1 ≠ 0#32 ∧ s.params.arpMaxAge ≤ s.params.arpMaxAge)
      ∧ (s.arp[1]? = some ⟨ip 10 0 0 2, mac 2, 0xFFFF#16⟩ ∧ ip 10 0 0 2 ≠ 0#32 ∧ 0xFFFF#16 = s.params.arpStaticAge) := by
  decide

theorem witness_ArpReqSendsOneRequest : (ops up (ip 10 0 0 1) 0#48 0#16).ctrl.attached = true := by decide

/-- A frame one byte too short; the request for us of V-ARP-6, cut to 42 bytes; the same as a reply; the same for another
address. -/
theorem witness_ArpRxLearnsThenAnswersOrFlushes :
    let cut := arpFrame.take 42
    let reply := cut.set 21 2#8
    let other := cut.set 41 77#8
    up.ctrl.attached = true ∧ (withA up cut).port.lenA.toNat ≤ up.params.bufCap ∧ up.ident.ownIp ≠ 0#32
      ∧ ¬ ArpFrameValid (withA up (arpFrame.take 41)).operandA
      ∧ (ArpFrameValid (withA up cut).operandA ∧ be16 (withA up cut).operandA 20 = 1#16
          ∧ be32 (withA up cut).operandA 38 = up.ident.ownIp)
      ∧ (ArpFrameValid (withA up reply).operandA ∧ be16 (withA up reply).operandA 20 = 2#16
          ∧ be32 (withA up reply).operandA 38 = up.ident.ownIp)
      ∧ (ArpFrameValid (withA up other).operandA ∧ be32 (withA up other).operandA 38 ≠ up.ident.ownIp) := by
  unfold ArpFrameValid
  decide +kernel

theorem arpUnique_of {s : State} {e : ArpEntry} (h : s.arp = [e, ArpEntry.zero]) : ArpUnique s := by
  intro i j x y hi hj hx hxy
  rw [h] at hi hj
  rcases i with _ | _ | i <;> rcases j with _ | _ | j <;> simp_all [ArpEntry.zero]
  · subst hj
    exact hx rfl
  · subst hi
    exact hx hxy.symm

theorem witness_StepKeepsArpEntriesUnique :
    let s : State := ({ withA up arpFrame with arp := [⟨ip 10 0 0 2, mac 2, 0#16⟩, ArpEntry.zero] } : State).writeCmd 0x24#8
    ArpUnique s ∧ ∃ t, step s = .next t :=
  ⟨arpUnique_of rfl, next_of_steps (by decide +kernel)⟩

/-- A step of a command that ages the table, and a step with none pending. -/
theorem witness_StaticArpEntriesPersist :
    let s := bound.writeCmd 0x22#8
    (∃ t, step s = .next t)
      ∧ (s.cmdPending = true → s.port.cmd ≠ 0x01#8 ∧ s.port.cmd ≠ 0x02#8)
      ∧ s.arp[0]? = some ⟨ip 10 0 0 1, mac 1, 0xFFFF#16⟩ ∧ ip 10 0 0 1 ≠ 0#32 ∧ 0xFFFF#16 = s.params.arpStaticAge
      ∧ ∃ t, step bound = .next t :=
  ⟨next_of_steps (by decide +kernel), by decide, by decide, by decide, by decide, next_of_steps (by decide +kernel)⟩

/-- The header of an IPv4 packet without options, identification 0, TTL 64. -/
def ipH (tl : Nat) (proto : Byte) (csum : BitVec 16) (src dst : IpAddr) : IpHeader :=
  ⟨20, 0#8, tl, 0#16, 0#16, 64#8, proto, csum, src, dst⟩

def hostHeader : IpHeader := ipH 30 17#8 0x66C6#16 (ip 10 0 0 9) (ip 10 0 0 1)

/-- The operand `b` of a command for the address `d`. -/
def toAddress (s : State) (d : IpAddr) (b : List Byte) : State := withA (ops s d 0#48 0#16) b

/-- A slot in use. -/
def heldSlot : RqSlot := ⟨true, pq, 30#16, ip 10 0 0 7, 5#32⟩

/-- Refusals: 19 and 1501 bytes; no next hop; a full pool. -/
theorem witness_RqEnqQueuesAndAsks_refuses :
    (let s := toAddress up (ip 10 0 0 7) (zeros 19)
     s.ctrl.attached = true ∧ s.port.lenA.toNat ≤ s.params.bufCap ∧ s.operandA.length < 20)
      ∧ (let s := toAddress up (ip 10 0 0 7) (zeros 1501)
         s.port.lenA.toNat ≤ s.params.bufCap ∧ s.params.ipMaxLen < s.operandA.length)
      ∧ (let s := toAddress { up with ident := { up.ident with gatewayIp := 0#32 } } (ip 192 0 2 7) (zeros 20)
         20 ≤ s.operandA.length ∧ s.operandA.length ≤ s.params.ipMaxLen ∧ specNextHop s s.port.opIp = 0#32)
      ∧ (let s := toAddress { up with rq := [heldSlot, heldSlot] } (ip 192 0 2 7) (zeros 1500)
         20 ≤ s.operandA.length ∧ s.operandA.length ≤ s.params.ipMaxLen ∧ specNextHop s s.port.opIp ≠ 0#32
           ∧ ∀ e ∈ s.rq, e.used = true) := by
  refine ⟨?_, ?_, ?_, ?_⟩ <;> decide +kernel

/-- Acceptance: an operand of `IP_MAX_LEN` bytes, and the last slot free. -/
theorem witness_RqEnqQueuesAndAsks_queues :
    let s := toAddress { up with rq := [heldSlot, RqSlot.zero] } (ip 10 0 0 7) (zeros 1500)
    (s.ctrl.attached = true ∧ s.port.lenA.toNat ≤ s.params.bufCap ∧ 20 ≤ s.operandA.length
        ∧ s.operandA.length ≤ s.params.ipMaxLen ∧ specNextHop s s.port.opIp ≠ 0#32)
      ∧ LowestIndex s.rq (fun e => e.used = false) 1 := by
  refine ⟨?_, lowestIndex_of ?_⟩ <;> decide +kernel

theorem witness_RqTickDropsAfterLife :
    let s : State := { up with rq := [⟨true, pq, 30#16, ip 10 0 0 7, 1#32⟩, RqSlot.zero] }
    s.ctrl.attached = true ∧ (∀ e ∈ s.rq, e.used = true → e.life ≠ 0#32)
      ∧ s.rq[0]? = some ⟨true, pq, 30#16, ip 10 0 0 7, 1#32⟩ ∧ 1#32 ≠ 0#32 ∧ 0 < (1#32).toNat := by decide +kernel

theorem witness_RqFlushSendsAndFreesMatchingSlots : up.ctrl.attached = true := by decide

theorem witness_StepKeepsRetryPool :
    let s : State := ({ up with rq := [⟨true, pq, 30#16, ip 10 0 0 7, 1000#32⟩, RqSlot.zero] } : State).writeCmd 0x31#8
    s.params.legal = true ∧ RetryPoolOk s ∧ ∃ t, step s = .next t := by
  refine ⟨by decide, ?_, next_of_steps (by decide +kernel)⟩
  unfold RetryPoolOk RqSlotOk
  decide +kernel

def inHeader : IpHeader := ipH 30 17#8 0x66CA#16 (ip 10 0 0 1) (ip 10 0 0 5)

/-- What every translator statement asks of the state. -/
def Ready (s : State) : Prop := s.ctrl.attached = true ∧ s.port.lenA.toNat ≤ s.params.bufCap

/-- The translator is active in this state. -/
def Active (s : State) : Prop := s.ident.externalHostIp ≠ 0#32 ∧ s.ident.externalHostIp ≠ s.ident.ownIp

/-- A packet with its total length set to 387, one above the `IP_MAX_LEN` of `short`. -/
def longer (b : List Byte) : List Byte := put16 b 2 387#16 ++ zeros (387 - b.length)

/-- `external_host_ip` 0, and equal to `own_ip`. -/
theorem witness_InactiveTranslatorPassesPacketsThrough :
    let s := withA up hostPacket
    let same := withA { up with ident := { up.ident with externalHostIp := ip 10 0 0 5 } } hostPacket
    Ready s ∧ Ready same ∧ s.ident.externalHostIp = 0#32 ∧ same.ident.externalHostIp = same.ident.ownIp
      ∧ ipDecode s.operandA = some hostHeader ∧ ipDecode same.operandA = some hostHeader := by
  unfold Ready
  decide +kernel

/-- 19 bytes; another source; a fragment; ICMP; a UDP segment of 7 bytes; a TCP segment of 19; a UDP segment of 8, its checksum
present and 0. -/
theorem witness_XlOutRewritesSource :
    let frag := put16 hostPacket 6 0x0005#16
    let icmp := hostPacket.set 9 1#8
    let udp7 := put16 hostPacket 2 27#16
    let tcp10 := hostPacket.set 9 6#8
    let udp8 := put16 hostPacket 2 28#16
    let other := hostPacket.set 15 8#8
    let at0 := fun b : List Byte => (withA xl b).operandA
    (∀ b ∈ [hostPacket.take 19, frag, icmp, udp7, tcp10, udp8, other], Ready (withA xl b) ∧ Active (withA xl b))
      ∧ ipDecode (at0 (hostPacket.take 19)) = none
      ∧ (ipDecode (at0 other) = some { hostHeader with src := ip 10 0 0 8 } ∧ ip 10 0 0 8 ≠ xl.ident.externalHostIp)
      ∧ (∃ h, ipDecode (at0 frag) = some h ∧ h = { hostHeader with flagsFrag := 5#16 } ∧ h.fragOff ≠ 0#13)
      ∧ (ipDecode (at0 icmp) = some { hostHeader with proto := 1#8 })
      ∧ (ipDecode (at0 udp7) = some { hostHeader with tl := 27 } ∧ (((at0 udp7).take 27).drop 20).length < 8)
      ∧ (ipDecode (at0 tcp10) = some { hostHeader with proto := 6#8 } ∧ tcpDecode (((at0 tcp10).take 30).drop 20) = none)
      ∧ (ipDecode (at0 udp8) = some { hostHeader with tl := 28 } ∧ 8 ≤ (((at0 udp8).take 28).drop 20).length
          ∧ hostHeader.src = xl.ident.externalHostIp ∧ hostHeader.fragOff = 0#13 ∧ hostHeader.proto = 17#8) := by
  unfold Ready Active
  exact ⟨by decide +kernel, by decide +kernel, by decide +kernel, ⟨_, by decide +kernel, rfl, by decide +kernel⟩,
    by decide +kernel, by decide +kernel, by decide +kernel, by decide +kernel⟩

theorem witness_XlInRewritesDestination :
    let frag := put16 inPacket 6 0x0001#16
    let icmp := inPacket.set 9 1#8
    let udp7 := put16 inPacket 2 27#16
    let tcp10 := inPacket.set 9 6#8
    let udp8 := put16 inPacket 2 28#16
    let other := inPacket.set 19 6#8
    let at0 := fun b : List Byte => (withA xl b).operandA
    (∀ b ∈ [inPacket.take 19, frag, icmp, udp7, tcp10, udp8, other], Ready (withA xl b) ∧ Active (withA xl b))
      ∧ ipDecode (at0 (inPacket.take 19)) = none
      ∧ (ipDecode (at0 other) = some { inHeader with dst := ip 10 0 0 6 } ∧ ip 10 0 0 6 ≠ xl.ident.ownIp)
      ∧ (ipDecode (at0 frag) = some { inHeader with flagsFrag := 1#16 }
          ∧ ({ inHeader with flagsFrag := 1#16 } : IpHeader).fragOff ≠ 0#13)
      ∧ (ipDecode (at0 icmp) = some { inHeader with proto := 1#8 })
      ∧ (ipDecode (at0 udp7) = some { inHeader with tl := 27 } ∧ (((at0 udp7).take 27).drop 20).length < 8)
      ∧ (ipDecode (at0 tcp10) = some { inHeader with proto := 6#8 } ∧ tcpDecode (((at0 tcp10).take 30).drop 20) = none)
      ∧ (ipDecode (at0 udp8) = some { inHeader with tl := 28 } ∧ 8 ≤ (((at0 udp8).take 28).drop 20).length
          ∧ inHeader.dst = xl.ident.ownIp ∧ inHeader.fragOff = 0#13 ∧ inHeader.proto = 17#8) := by
  unfold Ready Active
  decide +kernel

/-- The segment of V-XL-5 (d), and its headers, with given flags and sequence number. -/
def listPacket (seq : BitVec 32) (flags : Byte) : List Byte :=
  put32 (List.set (hex [0x45, 0x00, 0x00, 0x2E, 0x00, 0x00, 0x00, 0x00, 0x40, 0x06, 0xAF, 0x1C, 0x0A, 0x00, 0x00, 0x05, 0xC0,
    0xA8, 0x01, 0x01, 0x04, 0x01, 0x00, 0x15, 0x00, 0x00, 0x03, 0xFD, 0x00, 0x00, 0x13, 0xA6, 0x50, 0x18, 0x20,
    0x00, 0xFB, 0xB7, 0x00, 0x00, 0x4C, 0x49, 0x53, 0x54, 0x0D, 0x0A]) 33 flags) 24 seq
def listHeader : IpHeader := ipH 46 6#8 0xAF1C#16 (ip 10 0 0 5) (ip 192 168 1 1)
def listTcp (seq : BitVec 32) (flags : Byte) : TcpHeader := ⟨1025#16, 21#16, seq, 5030#32, 20, flags, 0xFBB7#16⟩

/-- Whether an entry is the flow 1025 to 21. -/
def isMine (e : PmapEntry) : Prop := e.srcPort = 1025#16 ∧ e.dstPort = 21#16 ∧ ¬ (e.srcPort = 0#16 ∧ e.dstPort = 0#16)

/-- What the tracking statements ask of the bytes of an outbound or an inbound packet. -/
def Segment (b : List Byte) (h : IpHeader) (t : TcpHeader) : Prop :=
  ipDecode b = some h ∧ h.fragOff = 0#13 ∧ h.proto = 6#8 ∧ tcpDecode ((b.take h.tl).drop h.hl) = some t

/-- The state hypotheses: an operand that is such a packet, the translator active. -/
theorem segment_ready {b : List Byte} {h : IpHeader} {t : TcpHeader} (hb : b.length ≤ 1514) (hs : Segment b h t) :
    Ready (withA flow b) ∧ Active (withA flow b) ∧ Segment (withA flow b).operandA h t := by
  have hl : b.length < 65536 := by omega
  refine ⟨⟨rfl, ?_⟩, ?_, by rwa [operandA_withA flow hl]⟩
  · rw [lenA_withA flow hl]
    exact hb
  · show flow.ident.externalHostIp ≠ 0#32 ∧ flow.ident.externalHostIp ≠ flow.ident.ownIp
    decide

/-- A SYN; above `last_seq`; at `last_seq`; FIN; RST. -/
theorem witness_XlOutTracksTcpFlow_packets :
    Segment (listPacket 1001#32 0x02#8) listHeader (listTcp 1001#32 0x02#8)
      ∧ Segment (listPacket 1001#32 0x18#8) listHeader (listTcp 1001#32 0x18#8)
      ∧ Segment (listPacket 1000#32 0x18#8) listHeader (listTcp 1000#32 0x18#8)
      ∧ Segment (listPacket 1027#32 0x11#8) listHeader (listTcp 1027#32 0x11#8)
      ∧ Segment (listPacket 1027#32 0x04#8) listHeader (listTcp 1027#32 0x04#8) := by
  unfold Segment
  decide +kernel

/-- A TCP header alone, every field its own offset's number. -/
def bareTcp : List Byte := hex [0, 1, 2, 3, 4, 5, 6, 7, 8, 9, 10, 11, 0x5C, 13, 14, 15, 16, 17, 18, 19]

/-- 30_encoding.md R94: 20 bytes that are all header decode; one byte less, a data offset of 4 and one beyond the bytes do not. -/
theorem witness_XlOutTracksTcpFlow_header :
    (let t : TcpHeader := ⟨0x0001#16, 0x0203#16, 0x04050607#32, 0x08090A0B#32, 20, 13#8, 0x1011#16⟩
     tcpDecode bareTcp = some t ∧ TcpHeaderOf bareTcp t)
      ∧ ∀ l ∈ [bareTcp.take 19, bareTcp.set 12 0x4C#8, bareTcp.set 12 0x6C#8], tcpDecode l = none := by
  unfold TcpHeaderOf
  decide +kernel

/-- One of these packets in `BUF_A` with the rest of the hypotheses; no entry; the flow in the last entry. -/
theorem witness_XlOutTracksTcpFlow :
    (let s := withA flow (listPacket 1001#32 0x18#8)
     Ready s ∧ Active s ∧ Segment s.operandA listHeader (listTcp 1001#32 0x18#8))
      ∧ listHeader.src = flow.ident.externalHostIp
      ∧ parsePort (((listPacket 1001#32 0x18#8).take listHeader.tl).drop 40) = none
      ∧ (∀ e ∈ ftp.pmap, ¬ isMine e)
      ∧ LowestIndex flow.pmap isMine 1 ∧ flow.pmap[1]? = some ⟨1025#16, 21#16, 0#16, 4#32, 1000#32⟩
      ∧ (listTcp 1001#32 0x02#8).flags.getLsbD 1 = true ∧ (listTcp 1001#32 0x18#8).flags.getLsbD 1 = false := by
  unfold isMine
  exact ⟨segment_ready (by decide +kernel) witness_XlOutTracksTcpFlow_packets.2.1, by decide, by decide +kernel,
    by decide, lowestIndex_of (by decide), by decide, by decide, by decide⟩

/-- The ACK of V-XL-5 with given flags and acknowledgement number. -/
def ackIn (ack : BitVec 32) (flags : Byte) : List Byte := put32 (ackPacket.set 33 flags) 28 ack
def ackHeader : IpHeader := ipH 40 6#8 0xF76A#16 (ip 192 168 1 1) (ip 192 168 1 20)
def ackTcp (ack : BitVec 32) (flags : Byte) : TcpHeader := ⟨21#16, 1025#16, 5000#32, ack, 20, flags, 0xF0CC#16⟩

/-- A SYN; above `last_seq`; at `last_seq`; no ACK flag; FIN. -/
theorem witness_XlInTracksTcpFlow_packets :
    Segment (ackIn 1028#32 0x12#8) ackHeader (ackTcp 1028#32 0x12#8)
      ∧ Segment (ackIn 1001#32 0x10#8) ackHeader (ackTcp 1001#32 0x10#8)
      ∧ Segment (ackIn 1000#32 0x10#8) ackHeader (ackTcp 1000#32 0x10#8)
      ∧ Segment (ackIn 2000#32 0x00#8) ackHeader (ackTcp 2000#32 0x00#8)
      ∧ Segment (ackIn 1028#32 0x11#8) ackHeader (ackTcp 1028#32 0x11#8) := by
  unfold Segment
  decide +kernel

/-- One of these packets in `BUF_A` with the rest of the hypotheses; no entry; the flow in the last entry. -/
theorem witness_XlInTracksTcpFlow :
    (let s := withA flow (ackIn 1001#32 0x10#8)
     Ready s ∧ Active s ∧ Segment s.operandA ackHeader (ackTcp 1001#32 0x10#8))
      ∧ ackHeader.dst = flow.ident.ownIp
      ∧ (∀ e ∈ ftp.pmap, ¬ isMine e)
      ∧ LowestIndex flow.pmap isMine 1 ∧ flow.pmap[1]? = some ⟨1025#16, 21#16, 0#16, 4#32, 1000#32⟩
      ∧ (ackTcp 1028#32 0x12#8).flags.getLsbD 1 = true ∧ (ackTcp 1001#32 0x10#8).flags.getLsbD 1 = false := by
  unfold isMine
  exact ⟨segment_ready (by decide +kernel) witness_XlInTracksTcpFlow_packets.2.1, by decide,
    by decide, lowestIndex_of (by decide), by decide, by decide, by decide⟩

/-- A payload in the grammar, with a leading zero and the greatest octet. -/
theorem witness_PortCommandGrammar :
    parsePort (hex [0x50, 0x4F, 0x52, 0x54, 0x20, 0x30, 0x31, 0x30, 0x2C, 0x32, 0x35, 0x35, 0x2C, 0x30, 0x2C, 0x35, 0x2C, 0x32])
      = some (hex [0x32]) := by decide +kernel

/-- Everything a `PORT` rewrite asks of the packet and the state, with `rest` what follows the address. -/
def PortReady (s : State) (b : List Byte) (h : IpHeader) (t : TcpHeader) (rest : List Byte) : Prop :=
  s.ctrl.attached = true ∧ s.port.lenA.toNat ≤ s.params.bufCap ∧ s.params.legal = true ∧ ipDecode b = some h
    ∧ s.ident.externalHostIp ≠ 0#32 ∧ s.ident.externalHostIp ≠ s.ident.ownIp ∧ h.src = s.ident.externalHostIp
    ∧ h.fragOff = 0#13 ∧ h.mf = false ∧ h.proto = 6#8
    ∧ tcpDecode ((b.take h.tl).drop h.hl) = some t ∧ t.dport = s.params.ftpCtrlPort
    ∧ parsePort (((b.take h.tl).drop h.hl).drop t.hlen) = some rest

/-- `"200,1\r\n"`. -/
def portRest : List Byte := hex [0x32, 0x30, 0x30, 0x2C, 0x31, 0x0D, 0x0A]

/-- The packet of V-XL-4 padded with `x` to a total length, with given flags; its headers and what follows the address. -/
def paddedPort (tl : Nat) (flags : Byte) : List Byte :=
  put16 (portPacket.set 33 flags) 2 (BitVec.ofNat 16 tl) ++ List.replicate (tl - 61) 0x78#8
def paddedHeader (tl : Nat) : IpHeader := ipH tl 6#8 0xAF0D#16 (ip 10 0 0 5) (ip 192 168 1 1)
def portTcp (flags : Byte) : TcpHeader := ⟨1025#16, 21#16, 1000#32, 5000#32, 20, flags, 0x8294#16⟩
def paddedRest (tl : Nat) : List Byte := portRest ++ List.replicate (tl - 61) 0x78#8

/-- A state of a `PORT` rewrite: `own_ip` and the packet. -/
def portState (own : IpAddr) (b : List Byte) : State :=
  withA { flow with params := short, ident := { flow.ident with ownIp := own } } b

def flowEntry : PmapEntry := ⟨1025#16, 21#16, 0#16, 4#32, 1000#32⟩
def otherEntry : PmapEntry := ⟨2000#16, 21#16, 0#16, 0#32, 0#32⟩

/-- The state hypotheses of both `PORT` statements: an `own_ip` of the same rendered length, a total length of 382 (the rewrite
fits exactly), of 383 (it is one byte too long), a SYN, and a rewrite of the same length one byte above `IP_MAX_LEN`. -/
theorem witness_PortRewriteRecordsDelta_ready :
    PortReady (portState (ip 10 0 0 9) portPacket) portPacket (paddedHeader 61) (portTcp 0x18#8) portRest
      ∧ PortReady (portState (ip 192 168 1 20) (paddedPort 382 0x18#8)) (paddedPort 382 0x18#8) (paddedHeader 382)
          (portTcp 0x18#8) (paddedRest 382)
      ∧ PortReady (portState (ip 192 168 1 20) (paddedPort 383 0x18#8)) (paddedPort 383 0x18#8) (paddedHeader 383)
          (portTcp 0x18#8) (paddedRest 383)
      ∧ PortReady (portState (ip 192 168 1 20) (paddedPort 61 0x1A#8)) (paddedPort 61 0x1A#8) (paddedHeader 61)
          (portTcp 0x1A#8) portRest
      ∧ PortReady (portState (ip 10 0 0 9) (paddedPort 387 0x18#8)) (paddedPort 387 0x18#8) (paddedHeader 387)
          (portTcp 0x18#8) (paddedRest 387) := by
  unfold PortReady
  refine ⟨?_, ?_, ?_, ?_, ?_⟩ <;> decide +kernel

/-- These packets are the operands of those states. -/
theorem witness_PortRewriteRecordsDelta_operands :
    (portState (ip 10 0 0 9) portPacket).operandA = portPacket
      ∧ (portState (ip 192 168 1 20) (paddedPort 382 0x18#8)).operandA = paddedPort 382 0x18#8
      ∧ (portState (ip 192 168 1 20) (paddedPort 383 0x18#8)).operandA = paddedPort 383 0x18#8
      ∧ (portState (ip 192 168 1 20) (paddedPort 61 0x1A#8)).operandA = paddedPort 61 0x1A#8
      ∧ (portState (ip 10 0 0 9) (paddedPort 387 0x18#8)).operandA = paddedPort 387 0x18#8 := by
  refine ⟨?_, ?_, ?_, ?_, ?_⟩ <;> exact operandA_withA _ (by decide +kernel)

/-- The lengths: equal; different and fitting (386 bytes); different and one byte above `IP_MAX_LEN`. -/
theorem witness_PortRewriteRecordsDelta_lengths :
    (portCommand (ip 10 0 0 9) portRest).length = 61 - 20 - 20
      ∧ ((portCommand (ip 10 0 0 9) (paddedRest 387)).length = 387 - 20 - 20 ∧ short.ipMaxLen < 387)
      ∧ ((portCommand (ip 192 168 1 20) (paddedRest 382)).length ≠ 382 - 20 - 20
          ∧ 20 + 20 + (portCommand (ip 192 168 1 20) (paddedRest 382)).length ≤ short.ipMaxLen)
      ∧ ((portCommand (ip 192 168 1 20) (paddedRest 383)).length ≠ 383 - 20 - 20
          ∧ short.ipMaxLen < 20 + 20 + (portCommand (ip 192 168 1 20) (paddedRest 383)).length) := by decide +kernel

/-- The tables: untracked (with a free entry and with none), cleared by a SYN, tracked. -/
theorem witness_PortRewriteRecordsDelta_tables :
    (let l := [otherEntry, PmapEntry.zero]
     (∀ e ∈ l, ¬ isMine e) ∧ LowestIndex l (fun e => e.srcPort = 0#16 ∧ e.dstPort = 0#16) 1)
      ∧ (let l := [otherEntry, otherEntry]
         (∀ e ∈ l, ¬ isMine e) ∧ ∀ e ∈ l, ¬ (e.srcPort = 0#16 ∧ e.dstPort = 0#16))
      ∧ (let l := [otherEntry, flowEntry]
         LowestIndex l isMine 1 ∧ (portTcp 0x1A#8).flags.getLsbD 1 = true
           ∧ LowestIndex (l.set 1 PmapEntry.zero) (fun e => e.srcPort = 0#16 ∧ e.dstPort = 0#16) 1)
      ∧ (LowestIndex flow.pmap isMine 1 ∧ flow.pmap[1]? = some flowEntry ∧ (portTcp 0x18#8).flags.getLsbD 1 = false) := by
  unfold isMine
  exact ⟨⟨by decide, lowestIndex_of (by decide)⟩, by decide,
    ⟨lowestIndex_of (by decide), by decide, lowestIndex_of (by decide)⟩, lowestIndex_of (by decide), by decide, by decide⟩

theorem witness_PortRewriteIsConsistent :
    let s := portState (ip 192 168 1 20) portPacket
    PortReady s portPacket (paddedHeader 61) (portTcp 0x18#8) portRest ∧ s.operandA = portPacket ∧ s.bufOut.wf
      ∧ (portCommand s.ident.ownIp portRest).length ≠ 61 - 20 - 20
      ∧ ∃ u, exec .xlOut s = .next u ∧ (u.port.status == 0#8) = true := by
  unfold PortReady
  exact ⟨by decide +kernel, operandA_withA _ (by decide +kernel), by decide +kernel, by decide +kernel,
    next_of_outcome (by decide +kernel)⟩

/-- Its clauses on the sequence number: the flow untracked; tracked, with the segment at `last_seq` and one above it. -/
theorem witness_PortRewriteIsConsistent_sequence :
    (∀ e ∈ ftp.pmap, ¬ isMine e)
      ∧ (LowestIndex flow.pmap isMine 1 ∧ flow.pmap[1]? = some flowEntry ∧ (portTcp 0x18#8).flags.getLsbD 1 = false
          ∧ ¬ flowEntry.lastSeq.toNat < (portTcp 0x18#8).seq.toNat)
      ∧ (Segment (put32 portPacket 24 1001#32) (paddedHeader 61) { portTcp 0x18#8 with seq := 1001#32 }
          ∧ flowEntry.lastSeq.toNat < (1001#32).toNat) := by
  unfold isMine Segment
  exact ⟨by decide, ⟨lowestIndex_of (by decide), by decide, by decide, by decide⟩, by decide +kernel⟩

theorem witness_PmTickCountsDownAndClears : flow.ctrl.attached = true := by decide

theorem witness_StepKeepsPortMapUnique :
    let s := (withA flow portPacket).writeCmd 0x40#8
    PortMapUnique s ∧ ∃ t, step s = .next t := by
  refine ⟨?_, next_of_steps (by decide +kernel)⟩
  intro i j x y hi hj hx hs hd
  have h : ((withA flow portPacket).writeCmd 0x40#8).pmap = [PmapEntry.zero, flowEntry] := rfl
  rw [h] at hi hj
  rcases i with _ | _ | i <;> rcases j with _ | _ | j <;> simp_all [PmapEntry.zero, flowEntry]
  all_goals subst_vars
  all_goals simp at *

theorem witness_DhTickInOffStartsDiscovery :
    ∀ d ∈ [DhState.off, DhState.backingOff, DhState.unused7], ∀ w ∈ [false, true],
      let s : State := { dh with dhcp := { dh.dhcp with state := d }, ctrl := ⟨true, w⟩ }
      s.ctrl.attached = true ∧ (s.dhcp.state = .off ∨ s.dhcp.state = .backingOff ∨ s.dhcp.state = .unused7)
        ∧ s.ctrl.dhcpWant = w := by decide

theorem witness_DhTickRetransmitsWithBackoff :
    ∀ d ∈ [DhState.selecting, DhState.requesting],
      let s := fun w : BitVec 16 => ({ dh with dhcp := { dh.dhcp with state := d, retryWait := w } } : State)
      (s 2#16).ctrl.attached = true ∧ ((s 2#16).dhcp.state = .selecting ∨ (s 2#16).dhcp.state = .requesting)
        ∧ 1 < (s 2#16).dhcp.retryWait.toNat ∧ (s 1#16).dhcp.retryWait.toNat ≤ 1 ∧ (s 0#16).dhcp.retryWait.toNat ≤ 1 := by
  decide +kernel

/-- Expiry from each bound state; renewal with the server's link address unknown and known; rebinding; plain counting. -/
theorem witness_DhTickInBoundStates :
    let s := fun (d : DhState) (l r b : BitVec 32) =>
      ({ bound with dhcp := { bound.dhcp with state := d, leaseSeconds := l, renewAt := r, rebindAt := b } } : State)
    (∀ d ∈ [DhState.bound, DhState.renewing, DhState.rebinding], (s d 1#32 0#32 0#32).ctrl.attached = true
        ∧ (s d 1#32 0#32 0#32).dhcp.state.isBound = true ∧ (s d 1#32 0#32 0#32).dhcp.leaseSeconds.toNat ≤ 1)
      ∧ (1 < (s .bound 2#32 1#32 9#32).dhcp.leaseSeconds.toNat ∧ (s .bound 2#32 1#32 9#32).dhcp.renewAt.toNat ≤ 1
          ∧ arpLookup (s .bound 2#32 1#32 9#32) (ip 10 0 0 1) = some (mac 1)
          ∧ arpLookup { s .bound 2#32 1#32 9#32 with arp := [] } (ip 10 0 0 1) = none)
      ∧ (1 < (s .renewing 2#32 0#32 1#32).dhcp.leaseSeconds.toNat ∧ (s .renewing 2#32 0#32 1#32).dhcp.state = .renewing
          ∧ (s .renewing 2#32 0#32 1#32).dhcp.rebindAt.toNat ≤ 1)
      ∧ (1 < (s .bound 2#32 2#32 0#32).dhcp.leaseSeconds.toNat
          ∧ ((s .bound 2#32 2#32 0#32).dhcp.state = .bound → 1 < (s .bound 2#32 2#32 0#32).dhcp.renewAt.toNat)
          ∧ ((s .bound 2#32 2#32 0#32).dhcp.state = .renewing → 1 < (s .bound 2#32 2#32 0#32).dhcp.rebindAt.toNat)) := by
  decide +kernel

/-- The reply that the frames of V-DH-2 to V-DH-4 carry, and the same without a lease time. -/
def offerOpts (t : Byte) : List (Byte × List Byte) :=
  [(53#8, [t]), (54#8, hex [10, 0, 0, 1]), (51#8, hex [0, 0, 0x0E, 0x10]), (1#8, hex [255, 255, 255, 0]),
   (3#8, hex [10, 0, 0, 1])]
def reply (t : Byte) (yi : IpAddr) : DhReply := ⟨mac 1, ip 10 0 0 1, yi, offerOpts t, t⟩

/-- A reply frame with another message type and `yiaddr`, its UDP checksum 0 ("not computed"). -/
def replyFrame (t : Byte) (yi : IpAddr) : List Byte := put32 (put16 (offerFrame.set 284 t) 40 0#16) 58 yi

/-- The buffer adds nothing to what the validation of its bytes reads. -/
theorem validate_withA {s : State} {b : List Byte} {r : Option DhReply} (hb : b.length < 65536) (h : dhValidate s b = r) :
    dhValidate (withA s b) (withA s b).operandA = r := by
  rw [operandA_withA s hb]
  exact h

/-- A state with the DHCP client in a given state. -/
def inState (d : DhState) (f : List Byte) : State :=
  withA { bound with dhcp := { bound.dhcp with state := d } } f

/-- Frames that fail one test of the common validation each: length, Ethertype, IP header; header checksum, protocol, ports,
UDP length and checksum, message fields, cookie, an option length, no option 53. -/
def badFrames : List (List Byte) :=
  [offerFrame.set 25 0x73#8, (put16 offerFrame 24 0x656D#16).set 23 6#8, put16 offerFrame 34 68#16,
    put16 offerFrame 38 0x0133#16, put16 offerFrame 40 0x58CE#16, offerFrame.set 42 1#8, offerFrame.set 75 0xBB#8,
    offerFrame.set 49 0x79#8, offerFrame.set 281 0x64#8, (put16 offerFrame 40 0#16).set 283 2#8,
    (put16 offerFrame 40 0#16).set 282 12#8]

/-- The OFFER of V-DH-2 passes every common test; 13 bytes, an undecodable packet and a wrong IP checksum pass none. -/
theorem witness_DhRxDiscardsInvalidDatagrams :
    DhcpReplyValid selecting offerFrame (reply 2#8 (ip 10 0 0 50))
      ∧ (∀ f ∈ [offerFrame.take 13, offerFrame.set 14 0x65#8, offerFrame.set 25 0x73#8], ∀ r, ¬ DhcpReplyValid selecting f r) := by
  refine ⟨⟨by decide +kernel, by decide +kernel, ⟨20, 0#8, 328, 1#16, 0#16, 64#8, 17#8, 0x6572#16, ip 10 0 0 1, ip 10 0 0 50⟩, ?_⟩, ?_⟩
  · decide +kernel
  · intro f hf r h
    obtain ⟨h14, -, x, hx, hc, -⟩ := h
    simp only [List.mem_cons, List.not_mem_nil, or_false] at hf
    rcases hf with rfl | rfl | rfl
    · revert h14
      decide +kernel
    · rw [show ipDecode ((offerFrame.set 14 0x65#8).drop 14) = none by decide +kernel] at hx
      cases hx
    · revert hc
      obtain ⟨hl, -⟩ := ipDecode_some hx
      rw [hl]
      decide +kernel

/-- A header alone, every field its own offset's number. -/
def bareIp : List Byte := hex [0x45, 1, 0, 20, 4, 5, 0x3F, 0xFF, 8, 9, 10, 11, 12, 13, 14, 15, 16, 17, 18, 19]

/-- 30_encoding.md R92, R93: 20 bytes that are all header decode, `MF` and the whole `frag_off` set; one byte less, version 6,
an IHL of 4, a header beyond the bytes, a total length below the header and one beyond the bytes do not. -/
theorem witness_DhRxDiscardsInvalidDatagrams_header :
    (let h : IpHeader := ⟨20, 1#8, 20, 0x0405#16, 0x3FFF#16, 8#8, 9#8, 0x0A0B#16, 0x0C0D0E0F#32, 0x10111213#32⟩
     ipDecode bareIp = some h ∧ Ipv4HeaderOf bareIp h ∧ h.fragOff = 8191#13 ∧ h.mf = true)
      ∧ ∀ b ∈ [bareIp.take 19, bareIp.set 0 0x65#8, bareIp.set 0 0x44#8, bareIp.set 0 0x46#8, bareIp.set 3 19#8, bareIp.set 3 21#8],
          ipDecode b = none := by
  unfold Ipv4HeaderOf
  decide +kernel

/-- Item by item: one byte left; data one byte beyond the area and exactly at its end; lengths of codes 1, 3, 53 and an unknown
one; a repeated code, and an absent one. -/
theorem witness_DhRxDiscardsInvalidDatagrams_options :
    ((12#8 : Byte) ≠ 0#8 ∧ 12#8 ≠ 255#8 ∧ (hex [1, 2]).length < (3#8).toNat ∧ (3#8).toNat ≤ (hex [1, 2, 3]).length)
      ∧ OptionLengthLegal 12#8 3 ∧ OptionLengthLegal 12#8 0 ∧ OptionLengthLegal 1#8 4 ∧ ¬ OptionLengthLegal 1#8 5
      ∧ OptionLengthLegal 3#8 8 ∧ ¬ OptionLengthLegal 3#8 0 ∧ ¬ OptionLengthLegal 3#8 6
      ∧ OptionLengthLegal 53#8 1 ∧ ¬ OptionLengthLegal 53#8 2
      ∧ (let l : List (Byte × List Byte) := [(1#8, [9#8]), (53#8, [2#8]), (53#8, [5#8])]
         LowestIndex l (fun o => o.1 = 53#8) 1 ∧ l[1]? = some (53#8, [2#8]) ∧ (l.all fun o => o.1 ≠ 51#8) = true) := by
  unfold OptionLengthLegal
  refine ⟨?_, ?_, ?_, ?_, ?_, ?_, ?_, ?_, ?_, ?_, lowestIndex_of ?_, ?_, ?_⟩ <;> decide

theorem witness_DhRxDiscardsInvalidDatagrams_frame :
    ∀ f ∈ [offerFrame.take 13, put16 offerFrame 12 0x0806#16, offerFrame.set 14 0x65#8],
      f.length < 65536 ∧ (f.length < 14 ∨ be16 f 12 ≠ 0x0800#16 ∨ ipDecode (f.drop 14) = none) := by decide +kernel

/-- They all decode as IP packets, and are refused. -/
theorem witness_DhRxDiscardsInvalidDatagrams_common :
    ∀ f ∈ badFrames, f.length ≤ 1514 ∧ (ipDecode (f.drop 14)).isSome = true ∧ dhValidate selecting f = none := by
  decide +kernel

/-- An OFFER of address 0; an ACK of another address, in each of its three states; an ACK without a lease time. -/
theorem witness_DhRxDiscardsInvalidDatagrams_transition :
    (dhValidate selecting (replyFrame 2#8 0#32) = some (reply 2#8 0#32) ∧ selecting.dhcp.state = .selecting
        ∧ (reply 2#8 0#32).yiaddr = 0#32)
      ∧ (∀ d ∈ [DhState.requesting, DhState.renewing, DhState.rebinding],
          dhValidate (inState d []) (replyFrame 5#8 (ip 10 0 0 51)) = some (reply 5#8 (ip 10 0 0 51))
            ∧ (reply 5#8 (ip 10 0 0 51)).yiaddr ≠ (inState d []).dhcp.address)
      ∧ (let r : DhReply := { reply 5#8 (ip 10 0 0 50) with opts := (offerOpts 5#8).set 2 (55#8, hex [0, 0, 0x0E, 0x10]) }
         dhValidate (inState .requesting []) ((replyFrame 5#8 (ip 10 0 0 50)).set 291 55#8) = some r
           ∧ optWord r.opts 51#8 = none) := by decide +kernel

/-- An ACK in `Selecting`, an OFFER in `Bound`. -/
theorem witness_DhRxIgnoresUnlistedPairs :
    (let s := withA selecting ackFrame
     let r := reply 5#8 (ip 10 0 0 50)
     dhValidate s s.operandA = some r ∧ Ready s ∧ ¬ (s.dhcp.state = .selecting ∧ r.msgType = 2#8)
       ∧ ¬ (s.dhcp.state = .requesting ∧ (r.msgType = 5#8 ∨ r.msgType = 6#8))
       ∧ ¬ ((s.dhcp.state = .renewing ∨ s.dhcp.state = .rebinding) ∧ r.msgType = 5#8))
      ∧ (let s := withA bound offerFrame
         dhValidate s s.operandA = some (reply 2#8 (ip 10 0 0 50)) ∧ Ready s ∧ s.dhcp.state = .bound) := by
  unfold Ready
  exact ⟨⟨validate_withA (by decide +kernel) (by decide +kernel), by decide +kernel⟩,
    validate_withA (by decide +kernel) (by decide +kernel), by decide +kernel⟩

theorem witness_DhRxOfferSendsRequest :
    let s := withA selecting offerFrame
    let r := reply 2#8 (ip 10 0 0 50)
    dhValidate s s.operandA = some r ∧ Ready s ∧ s.dhcp.state = .selecting ∧ r.msgType = 2#8 ∧ r.yiaddr ≠ 0#32 := by
  unfold Ready
  exact ⟨validate_withA (by decide +kernel) (by decide +kernel), by decide +kernel⟩

theorem witness_DhRxAckCommitsBinding :
    let s := withA requesting ackFrame
    let r := reply 5#8 (ip 10 0 0 50)
    dhValidate s s.operandA = some r ∧ Ready s ∧ s.dhcp.state = .requesting ∧ r.msgType = 5#8 ∧ r.yiaddr = s.dhcp.address
      ∧ optWord r.opts 51#8 = some 3600#32 := by
  unfold Ready
  exact ⟨validate_withA (by decide +kernel) (by decide +kernel), by decide +kernel⟩

def nakReply : DhReply := ⟨mac 1, ip 10 0 0 1, 0#32, [(53#8, [6#8]), (54#8, hex [10, 0, 0, 1])], 6#8⟩

theorem witness_DhRxNakReturnsToOff :
    let s := withA requesting nakFrame
    dhValidate s s.operandA = some nakReply ∧ Ready s ∧ s.dhcp.state = .requesting ∧ nakReply.msgType = 6#8 := by
  unfold Ready
  exact ⟨validate_withA (by decide +kernel) (by decide +kernel), by decide +kernel⟩

theorem witness_DhRxAckRefreshesTimers :
    ∀ d ∈ [DhState.renewing, DhState.rebinding],
      let s := inState d ackFrame
      let r := reply 5#8 (ip 10 0 0 50)
      dhValidate s s.operandA = some r ∧ Ready s ∧ (s.dhcp.state = .renewing ∨ s.dhcp.state = .rebinding)
        ∧ r.msgType = 5#8 ∧ r.yiaddr = s.dhcp.address ∧ optWord r.opts 51#8 = some 3600#32 := by
  unfold Ready
  intro d hd
  refine ⟨validate_withA (by decide +kernel) ?_, ?_⟩ <;> revert d <;> decide +kernel

theorem witness_DhRelReleasesAndStops :
    (dh.ctrl.attached = true ∧ dh.dhcp.state = .off)
      ∧ (selecting.ctrl.attached = true ∧ selecting.dhcp.state = .selecting ∧ requesting.dhcp.state = .requesting)
      ∧ (bound.dhcp.state.isBound = true ∧ arpLookup { bound with arp := [] } bound.dhcp.dhcpServer = none)
      ∧ (bound.ctrl.attached = true ∧ arpLookup bound bound.dhcp.dhcpServer = some (mac 1)) := by decide +kernel

theorem witness_DhcpFramesVerify : small.legal = true ∧ bound.params = small := by decide

/-- (a) from the state of section 6, whose tick leaves the port's operands alone, with the OFFER of V-DH-2 in `BUF_A`; (b) the
NAK of V-DH-4, see `witness_DhRxNakReturnsToOff`. -/
theorem witness_OfferLeadsToRequestingNakToOff :
    (dh.ctrl.attached = true ∧ dh.dhcp.state = .off ∧ dh.ctrl.dhcpWant = true)
      ∧ ∃ s1, exec .dhTick dh = .next s1
          ∧ (let r := reply 2#8 (ip 10 0 0 50)
             decide (dhValidate s1 offerFrame = some r ∧ r.msgType = 2#8 ∧ r.yiaddr ≠ 0#32
               ∧ (withA dh offerFrame).port.lenA.toNat ≤ dh.params.bufCap)) = true :=
  ⟨by decide, next_of_outcome (p := fun s1 => let r := reply 2#8 (ip 10 0 0 50)
    decide (dhValidate s1 offerFrame = some r ∧ r.msgType = 2#8 ∧ r.yiaddr ≠ 0#32
      ∧ (withA dh offerFrame).port.lenA.toNat ≤ dh.params.bufCap)) (by decide +kernel)⟩

theorem witness_OffNeverTransmits :
    dh.dhcp.state = .off ∧ ∀ i ∈ [Instr.dhTick, .dhRx, .dhRel, .tick, .detach], ∃ t, exec i dh = .next t ∧ true = true := by
  refine ⟨by decide, fun i hi => next_of_outcome (p := fun _ => true) ?_⟩
  revert i
  decide +kernel

theorem witness_StepKeepsDhcpRegisters :
    let s := bound.writeCmd 0x50#8
    DhcpOk s ∧ ∃ t, step s = .next t := by
  unfold DhcpOk
  exact ⟨by decide +kernel, next_of_steps (by decide +kernel)⟩

theorem witness_attach_detach_tick :
    up.ctrl.attached = true ∧ down0.ctrl.attached = false ∧ bound.ctrl.attached = true := by decide

/-- Received frames of every class, with a `BUF_CAP` above `ETH_MAX_PACKET`: 13 bytes, 1515 bytes, ARP, 14 bytes of an unknown
Ethertype, an IP packet that does not decode, DHCP for us and by broadcast, ours, broadcast, foreign. -/
theorem witness_RxClassifiesFrames :
    let w : State := { up with params := { small with bufCap := 2000 } }
    let f := fun b : List Byte => (withA w b).operandA
    let sized := fun b : List Byte => 14 ≤ (f b).length ∧ (f b).length ≤ w.params.ethMaxPacket
    let p := inFrame.set 33 6#8
    let bc := put32 inFrame 30 0xFFFFFFFF#32
    (∀ b ∈ [zeros 13, zeros 1515, arpFrame, zeros 14, inFrame.set 14 0x44#8, offerFrame, nakFrame, inFrame, bc, p], Ready (withA w b))
      ∧ ¬ sized (zeros 13) ∧ ¬ sized (zeros 1515)
      ∧ (sized arpFrame ∧ be16 (f arpFrame) 12 = 0x0806#16)
      ∧ (sized (zeros 14) ∧ be16 (f (zeros 14)) 12 ≠ 0x0806#16 ∧ be16 (f (zeros 14)) 12 ≠ 0x0800#16)
      ∧ (sized (inFrame.set 14 0x44#8) ∧ ipDecode ((f (inFrame.set 14 0x44#8)).drop 14) = none)
      ∧ (sized offerFrame ∧ (ipDecode ((f offerFrame).drop 14)).map (·.proto) = some 17#8
          ∧ be48 (f offerFrame) 0 = w.ident.ownMac ∧ be16 (f offerFrame) 34 = w.params.dhcpServerPort
          ∧ be16 (f offerFrame) 36 = w.params.dhcpClientPort)
      ∧ (sized inFrame ∧ be16 (f inFrame) 12 = 0x0800#16 ∧ ipDecode ((f inFrame).drop 14) = some inHeader
          ∧ inHeader.dst = w.ident.ownIp ∧ be16 (f inFrame) 34 ≠ w.params.dhcpServerPort)
      ∧ (sized bc ∧ ipDecode ((f bc).drop 14) = some { inHeader with dst := 0xFFFFFFFF#32 })
      ∧ (sized p ∧ ipDecode ((f p).drop 14) = some { inHeader with dst := ip 10 0 0 6 } ∧ ip 10 0 0 6 ≠ w.ident.ownIp
          ∧ be16 (f p) 34 ≠ w.params.dhcpServerPort) := by
  unfold Ready
  decide +kernel

/-- The outcomes of `TX` in the order of the rule: undecodable, too long, no address, dropped by the translator, no route, a
known link address, an unknown one. -/
theorem witness_TxOutcomesInOrder :
    (Ready (withA xl (hostPacket.take 19)) ∧ ipDecode (withA xl (hostPacket.take 19)).operandA = none)
      ∧ (Ready (withA xlShort (longer hostPacket)) ∧ (withA xlShort (longer hostPacket)).operandA = (longer hostPacket)
          ∧ ipDecode (longer hostPacket) = some { hostHeader with tl := 387 } ∧ short.ipMaxLen < 387)
      ∧ (ipDecode (withA dh hostPacket).operandA = some hostHeader ∧ hostHeader.tl ≤ small.ipMaxLen ∧ dh.ident.ownIp = 0#32)
      ∧ (let s := { ftp with params := short }
         ipDecode (paddedPort 383 0x18#8) = some (paddedHeader 383) ∧ 383 ≤ short.ipMaxLen ∧ s.ident.ownIp ≠ 0#32
           ∧ (xlOut s (paddedPort 383 0x18#8)).2.2 = none)
      ∧ (∃ u st q, xlOut xl (withA xl hostPacket).operandA = (u, st, some q)
          ∧ (decide (arpLookup xl (specNextHop xl (be32 q 16)) = none) && decide (specNextHop xl (be32 q 16) ≠ 0#32)
              && decide (arpLookup bound (specNextHop xl (be32 q 16)) = some (mac 1))
              && decide (specNextHop { xl with ident := { xl.ident with ownMask := 0xFFFFFFFF#32, gatewayIp := 0#32 } }
                  (be32 q 16) = 0#32)) = true) := by
  unfold Ready
  exact ⟨by decide +kernel, ⟨by decide +kernel, operandA_withA _ (by decide +kernel), by decide +kernel⟩,
    by decide +kernel, by decide +kernel, packet_of (by decide +kernel)⟩

theorem witness_RfnmCountsEveryTx :
    (withA xl hostPacket).ctrl.attached = true ∧ (withA xl hostPacket).port.lenA.toNat ≤ xl.params.bufCap
      ∧ ∃ t, exec .rx (withA xl inFrame) = .next t ∧ true = true :=
  ⟨by decide +kernel, by decide +kernel, next_of_outcome (p := fun _ => true) (by decide +kernel)⟩

/-- Every register number of the write table, and the numbers next to it. -/
theorem witness_CsrWrTable :
    (∀ n ∈ [0x00#8, 0x01#8, 0x02#8], (csr up n 7#48).ctrl.attached = true ∧ (csr down0 n 7#48).ctrl.attached = false
        ∧ (csr up n 7#48).port.opReg = n)
      ∧ (∀ n ∈ [0x03#8, 0x04#8, 0x05#8, 0x29#8], (csr up n 7#48).port.opReg = n)
      ∧ ∀ n ∈ [0x06#8, 0x0F#8, 0x10#8, 0x28#8, 0x2A#8, 0xFF#8], 5 < (csr up n 7#48).port.opReg.toNat
          ∧ (csr up n 7#48).port.opReg ≠ 0x29#8 := by decide +kernel

theorem witness_CsrRdTable :
    (csr bound 0x00#8 0#48).port.opReg = 0x00#8 ∧ (0x00#8, mac 0xAA) ∈ specCsrValues bound
      ∧ (csr bound 0x29#8 0#48).port.opReg = 0x29#8 ∧ (0x29#8, 0#48) ∈ specCsrValues bound
      ∧ ∀ n ∈ [0x06#8, 0x0F#8, 0x1B#8, 0x1F#8, 0x2A#8, 0xFF#8],
          ((specCsrValues bound).all fun p => decide ((csr bound n 0#48).port.opReg ≠ p.1)) = true := by
  decide +kernel

theorem witness_CommandsChangeOnlyWhatTheyName :
    ∀ i ∈ [Instr.attach, .detach, .tick, .rx, .tx, .csrWr, .csrRd, .csum, .csadj, .arpLookup, .arpUpdate, .arpAge, .arpReq,
        .arpRx, .rqEnq, .rqTick, .rqFlush, .xlOut, .xlIn, .pmTick, .dhTick, .dhRx, .dhRel],
      ∃ t, exec i (withA bound inPacket) = .next t ∧ true = true := by
  intro i hi
  refine next_of_outcome (p := fun _ => true) ?_
  revert i
  decide +kernel

/-- A command that sends, and one that delivers. -/
theorem witness_EmittedEventsAreWellFormed :
    let pool : List RqSlot := [⟨true, pq, 30#16, ip 10 0 0 7, 1000#32⟩, RqSlot.zero]
    let s := withA { xl with rq := pool } hostPacket
    let r := withA { xl with rq := pool } inFrame
    s.params.legal = true ∧ RetryPoolOk s ∧ RetryPoolOk r
      ∧ (∃ t, exec .tx s = .next t ∧ (t.events.length == 1) = true)
      ∧ ∃ t, exec .rx r = .next t ∧ (t.events == [.hostDeliver deliveredPacket]) = true := by
  refine ⟨by decide, ?_, ?_, next_of_outcome (p := fun t => t.events.length == 1) (by decide +kernel),
    next_of_outcome (p := fun t => t.events == [.hostDeliver deliveredPacket]) (by decide +kernel)⟩
  all_goals
    unfold RetryPoolOk RqSlotOk
    decide +kernel

theorem witness_StatusAndCountersAreNeverRead : Instr.rx ≠ .csrRd := by decide

theorem witness_StepKeepsShape :
    let s := (withA xl hostPacket).writeCmd 0x40#8
    s.params.legal = true ∧ ShapeOk s ∧ ∃ t, step s = .next t := by
  unfold ShapeOk
  exact ⟨by decide, by decide +kernel, next_of_steps (by decide +kernel)⟩

end Sys2Proof.Tests
end

/-!
Reserved opcodes (spec/30_encoding.md R83): a byte that decodes is the opcode of its command (R81), no command's opcode is
in R83's list, so the step of a listed byte is the one that answers `ILLEGAL_CMD`.
-/

namespace Sys2Proof.Machine

/-- A byte that decodes to a command is that command's opcode (30_encoding.md R81). -/
theorem eq_encodeOpcode_of_decodeOpcode {w : Byte} {i : Instr} (h : decodeOpcode w = .ok i) : w = encodeOpcode i := by
  apply BitVec.eq_of_toNat_eq
  unfold decodeOpcode at h
  split at h
  case h_24 => cases h
  all_goals
    next hw =>
    cases h
    exact hw

/-- The opcode map of 30_encoding.md R81 and the list of R83 have no opcode in common. -/
theorem not_reservedByList_encodeOpcode (i : Instr) : ¬ reservedByList (encodeOpcode i).toNat := by
  unfold reservedByList
  cases i <;> decide

/-- No opcode that 30_encoding.md R83 lists decodes to a command. -/
theorem decode_ne_ok_of_reservedByList {w : Byte} (hw : reservedByList w.toNat) (i : Instr) : decode [w] ≠ .ok i := by
  intro hd
  have hopcode : w = encodeOpcode i := eq_encodeOpcode_of_decodeOpcode hd
  exact not_reservedByList_encodeOpcode i (hopcode ▸ hw)

/-- Settles O2: of the two things a step with a pending command can do, the run of a command is ruled out. -/
theorem reservedOpcodeOnlySetsStatus : Obligations.ReservedOpcodeOnlySetsStatus := by
  intro s hpending hreserved
  rcases step_pending hpending with ⟨i, hdecode, -⟩ | ⟨-, hstep⟩
  · exact absurd hdecode (decode_ne_ok_of_reservedByList hreserved i)
  · exact hstep

end Sys2Proof.Machine

/-!
The Checksum Engine (spec/40_checksum.md R121, R122, R127). Every checksum is read off `weightedSum`, so each statement comes
down to how that sum splits over an append, how `put16` changes it, and what its residue modulo 0xFFFF leaves open: which of
the two zeros of one's-complement arithmetic, 0 and 0xFFFF, an accumulator holds.
-/

namespace Sys2Proof.Machine

/-! ### The word sum of a byte sequence -/

/-- What follows an odd number of bytes is summed as if one zero byte stood before it: its offsets change parity. -/
theorem weightedSum_append (x y : List Byte) :
    weightedSum (x ++ y) = weightedSum x + weightedSum (List.replicate (x.length % 2) 0#8 ++ y) := by
  induction x using weightedSum.induct with
  | case1 => simp [weightedSum]
  | case2 a => cases y <;> simp [weightedSum, Nat.add_assoc]
  | case3 a b rest ih =>
    simp only [List.cons_append, weightedSum, ih, List.length_cons, Nat.add_assoc, Nat.reduceAdd, Nat.add_mod_right]

theorem weightedSum_append_of_even {x : List Byte} (h : x.length % 2 = 0) (y : List Byte) :
    weightedSum (x ++ y) = weightedSum x + weightedSum y := by
  rw [weightedSum_append, h, List.replicate_zero, List.nil_append]

theorem byte_toNat_eq_zero_iff (a : Byte) : a.toNat = 0 ↔ a = 0#8 := by
  rw [BitVec.toNat_eq, BitVec.toNat_ofNat, Nat.zero_mod]

theorem weightedSum_eq_zero_iff (d : List Byte) : weightedSum d = 0 ↔ ∀ b ∈ d, b = 0#8 := by
  induction d using weightedSum.induct with
  | case1 => simp [weightedSum]
  | case2 a => simp [weightedSum, byte_toNat_eq_zero_iff]
  | case3 a b rest ih => simp [weightedSum, ih, byte_toNat_eq_zero_iff, and_assoc]

@[simp] theorem weightedSum_replicate_zero (n : Nat) : weightedSum (List.replicate n 0#8) = 0 :=
  (weightedSum_eq_zero_iff _).2 fun _ h => List.eq_of_mem_replicate h

theorem weightedSum_append_zeros (d : List Byte) (n : Nat) :
    weightedSum (d ++ List.replicate n 0#8) = weightedSum d := by
  rw [weightedSum_append, List.replicate_append_replicate, weightedSum_replicate_zero, Nat.add_zero]

/-- The two bytes that `put16` writes weigh the value they hold. -/
theorem toNat_extractLsb'_bytes (v : BitVec 16) :
    256 * (v.extractLsb' 8 8).toNat + (v.extractLsb' 0 8).toNat = v.toNat := by
  rw [← toNat_append_bytes]
  exact congrArg BitVec.toNat (be16_bytes16 v [])

/-- A word written at an even offset takes the place of the word that stood there. -/
theorem weightedSum_put16 (v : BitVec 16) : ∀ {x : List Byte} {i : Nat}, i % 2 = 0 → i + 2 ≤ x.length →
    weightedSum (put16 x i v) + (be16 x i).toNat = weightedSum x + v.toNat := by
  intro x
  induction x using weightedSum.induct with
  | case1 => intro i _ hlen; simp at hlen
  | case2 a => intro i _ hlen; simp at hlen
  | case3 a b rest ih =>
    intro i heven hlen
    match i with
    | 0 =>
      have hv := toNat_extractLsb'_bytes v
      have hold : (be16 (a :: b :: rest) 0).toNat = 256 * a.toNat + b.toNat := toNat_append_bytes a b
      simp only [put16, List.set_cons_zero, List.set_cons_succ, weightedSum]
      omega
    | 1 => omega
    | k + 2 =>
      have hput : put16 (a :: b :: rest) (k + 2) v = a :: b :: put16 rest k v := rfl
      have hget : be16 (a :: b :: rest) (k + 2) = be16 rest k := rfl
      have hrest := @ih k (by omega) (by simpa using hlen)
      rw [hput, hget]
      simp only [weightedSum]
      omega

/-- Inside R127's domain the bytes outside the changed range weigh the same before and after. -/
theorem weightedSum_splice {b : List Byte} {i j : Nat} (n : List Byte) (hij : i ≤ j) (hj : j ≤ b.length)
    (heven : i % 2 = 0) (htail : j = b.length ∨ (n.length + (j - i)) % 2 = 0) :
    ∃ rest, weightedSum b = rest + weightedSum (slice b i j)
      ∧ weightedSum (b.take i ++ n ++ b.drop j) = rest + weightedSum n := by
  have hhead : (b.take i).length % 2 = 0 := by
    rw [List.length_take, Nat.min_eq_left (by omega)]
    exact heven
  have hb : b = b.take i ++ (slice b i j ++ b.drop j) := by
    have hdrop : b.drop j = (b.drop i).drop (j - i) := by rw [List.drop_drop, Nat.add_sub_of_le hij]
    rw [slice, hdrop, List.take_append_drop, List.take_append_drop]
  have hsum : weightedSum b = weightedSum (b.take i) + (weightedSum (slice b i j)
      + weightedSum (List.replicate ((slice b i j).length % 2) 0#8 ++ b.drop j)) := by
    rw [← weightedSum_append, ← weightedSum_append_of_even hhead, ← hb]
  have hafter : weightedSum (List.replicate ((slice b i j).length % 2) 0#8 ++ b.drop j)
      = weightedSum (List.replicate (n.length % 2) 0#8 ++ b.drop j) := by
    rcases htail with rfl | hpar
    · simp
    · have hmod : (slice b i j).length % 2 = n.length % 2 := by
        rw [length_slice]
        omega
      rw [hmod]
  refine ⟨weightedSum (b.take i) + weightedSum (List.replicate (n.length % 2) 0#8 ++ b.drop j), ?_, ?_⟩
  · omega
  · rw [List.append_assoc, weightedSum_append_of_even hhead, weightedSum_append n]
    omega

/-! ### The checksum as a function of the word sum -/

theorem checksum_eq_complementSum (b : List Byte) : checksum b = complementSum b := by
  apply BitVec.eq_of_toNat_eq
  rw [toNat_checksum, complementSum, BitVec.toNat_ofNat]
  omega

theorem checksum_congr {x y : List Byte} (h : weightedSum x = weightedSum y) : checksum x = checksum y := by
  rw [checksum_eq_complementSum, checksum_eq_complementSum, complementSum, complementSum, h]

/-- 0xFFFF is the checksum of an empty sum alone (40_checksum.md R122 (c)). -/
theorem checksum_eq_ffff_iff (b : List Byte) : checksum b = 0xFFFF#16 ↔ weightedSum b = 0 := by
  have hle := foldedSum_le (weightedSum b)
  rw [BitVec.toNat_eq, toNat_checksum, ← foldedSum_eq_zero_iff, BitVec.toNat_ofNat]
  omega

/-- A sequence verifies when its sum is a multiple of 0xFFFF other than 0. -/
theorem checksum_eq_zero_iff (b : List Byte) :
    checksum b = 0#16 ↔ weightedSum b ≠ 0 ∧ weightedSum b % 0xFFFF = 0 := by
  have hle := foldedSum_le (weightedSum b)
  have hmod := foldedSum_mod (weightedSum b)
  have hzero := foldedSum_eq_zero_iff (weightedSum b)
  rw [BitVec.toNat_eq, toNat_checksum, BitVec.toNat_ofNat]
  omega

/-- Two whole words at even offsets change places without changing the sum (40_checksum.md R122 (f)). -/
theorem weightedSum_swap_words {x y : List Byte} (hx : x.length % 2 = 0) (hy : y.length % 2 = 0) (a b c d : Byte)
    (z : List Byte) :
    weightedSum (x ++ [a, b] ++ y ++ [c, d] ++ z) = weightedSum (x ++ [c, d] ++ y ++ [a, b] ++ z) := by
  simp only [List.append_assoc, weightedSum_append_of_even hx, weightedSum_append_of_even hy, List.cons_append,
    List.nil_append, weightedSum]
  omega

/-- The checksum in its own field, computed with the field 0, makes the sequence verify (40_checksum.md R122 (g)). -/
theorem checksum_put16_checksum {x : List Byte} {i : Nat} (heven : i % 2 = 0) (hlen : i + 2 ≤ x.length)
    (hfield : be16 x i = 0#16) : checksum (put16 x i (checksum x)) = 0#16 := by
  have hput := weightedSum_put16 (checksum x) heven hlen
  have hle := foldedSum_le (weightedSum x)
  have hmod := foldedSum_mod (weightedSum x)
  have hzero := foldedSum_eq_zero_iff (weightedSum x)
  rw [hfield, toNat_checksum, BitVec.toNat_ofNat] at hput
  rw [checksum_eq_zero_iff]
  omega

/-- Where the checksum is 0, the other zero 0xFFFF in its field verifies as well (40_checksum.md R122 (g)). -/
theorem checksum_put16_ffff {x : List Byte} {i : Nat} (heven : i % 2 = 0) (hlen : i + 2 ≤ x.length)
    (hfield : be16 x i = 0#16) (hx : checksum x = 0#16) : checksum (put16 x i 0xFFFF#16) = 0#16 := by
  have hput := weightedSum_put16 0xFFFF#16 heven hlen
  rw [hfield, BitVec.toNat_ofNat, BitVec.toNat_ofNat] at hput
  rw [checksum_eq_zero_iff] at hx ⊢
  omega

/-- Settles O8: the folding loop in closed form is the complement of the folded word sum. -/
theorem csumStoresComplementOfFoldedSum : Obligations.CsumStoresComplementOfFoldedSum := by
  intro s hfits
  have hrun : exec .csum s = .next ((s.putCsum (checksum s.operandA)).withStatus 0#8) := by
    rw [exec, execCsum, withBufA_fits hfits, finish_eq, Status.code]
  rw [hrun, checksum_eq_complementSum]
  rfl

/-- Settles O9: the fixed sums are evaluated; the clauses over all data are facts about the word sum. -/
theorem checksumCornerCases : Obligations.ChecksumCornerCases := by
  refine ⟨by decide, fun n => ?zeros, fun d => ?onlyZeros, by decide, by decide, by decide, by decide, fun d n => ?appended,
    fun x y z a b c d hx hy => ?swapped, fun x i heven hlen hfield => ⟨?verifies, ?otherZero⟩⟩
  case zeros => exact (checksum_eq_ffff_iff _).2 (weightedSum_replicate_zero n)
  case onlyZeros => exact (checksum_eq_ffff_iff d).trans (weightedSum_eq_zero_iff d)
  case appended => exact checksum_congr (weightedSum_append_zeros d n)
  case swapped => exact checksum_congr (weightedSum_swap_words hx hy a b c d z)
  case verifies => exact checksum_put16_checksum heven hlen hfield
  case otherZero => exact checksum_put16_ffff heven hlen hfield

/-! ### The accumulator of the incremental update -/

/-- Subtracting a run of words keeps the range and subtracts their sum modulo 0xFFFF. -/
theorem foldl_csumSub_spec (zb : Bool) (ws : List (BitVec 16)) : ∀ {s : Nat}, s ≤ 0xFFFF →
    ws.foldl (csumSub zb) s ≤ 0xFFFF
      ∧ (ws.foldl (csumSub zb) s + (ws.map BitVec.toNat).sum) % 0xFFFF = s % 0xFFFF := by
  induction ws with
  | nil => simp
  | cons w ws ih =>
    intro s hs
    obtain ⟨hle, hmod⟩ := csumSub_spec zb hs w
    obtain ⟨hle', hmod'⟩ := ih hle
    rw [List.foldl_cons, List.map_cons, List.sum_cons]
    omega

/-- Adding a run of words keeps the range and adds their sum modulo 0xFFFF; it ends at 0 only from 0 with nothing added. -/
theorem foldl_csumAdd_spec (ws : List (BitVec 16)) : ∀ {s : Nat}, s ≤ 0xFFFF →
    ws.foldl csumAdd s ≤ 0xFFFF ∧ ws.foldl csumAdd s % 0xFFFF = (s + (ws.map BitVec.toNat).sum) % 0xFFFF
      ∧ (ws.foldl csumAdd s = 0 ↔ s = 0 ∧ (ws.map BitVec.toNat).sum = 0) := by
  induction ws with
  | nil => simp
  | cons w ws ih =>
    intro s hs
    obtain ⟨hle, hmod, hzero⟩ := csumAdd_spec hs w
    obtain ⟨hle', hmod', hzero'⟩ := ih hle
    rw [List.foldl_cons, List.map_cons, List.sum_cons]
    omega

/-- Without the zero borrow a subtraction ends at 0xFFFF only from 0xFFFF with nothing subtracted. -/
theorem csumSub_false_eq_ffff {s : Nat} (hs : s ≤ 0xFFFF) {w : BitVec 16} (h : csumSub false s w = 0xFFFF) :
    s = 0xFFFF ∧ w.toNat = 0 := by
  have hw := w.isLt
  simp only [csumSub, Bool.false_eq_true, false_and, or_false] at h
  split at h <;> omega

theorem foldl_csumSub_false_eq_ffff (ws : List (BitVec 16)) : ∀ {s : Nat}, s ≤ 0xFFFF →
    ws.foldl (csumSub false) s = 0xFFFF → s = 0xFFFF ∧ (ws.map BitVec.toNat).sum = 0 := by
  induction ws with
  | nil => simp
  | cons w ws ih =>
    intro s hs h
    obtain ⟨hstep, hsum⟩ := ih (csumSub_spec false hs w).1 h
    obtain ⟨hstart, hword⟩ := csumSub_false_eq_ffff hs hstep
    rw [List.map_cons, List.sum_cons]
    omega

/-- With the zero borrow no subtraction ends at 0, as long as nothing but 0 is taken from 0. -/
theorem csumSub_true_ne_zero {s : Nat} (hs : s ≤ 0xFFFF) {w : BitVec 16} (h : s = 0 → w.toNat = 0) :
    csumSub true s w ≠ 0 := by
  have hw := w.isLt
  simp only [csumSub, true_and]
  split <;> omega

theorem foldl_csumSub_true_eq_zero (ws : List (BitVec 16)) : ∀ {s : Nat}, s ≤ 0xFFFF →
    (s = 0 → (ws.map BitVec.toNat).sum = 0) → ws.foldl (csumSub true) s = 0 → s = 0 := by
  induction ws with
  | nil => simp
  | cons w ws ih =>
    intro s hs hempty h
    rw [List.map_cons, List.sum_cons] at hempty
    have hstep : csumSub true s w ≠ 0 := csumSub_true_ne_zero hs (by omega)
    exact absurd (ih (csumSub_spec true hs w).1 (by omega) h) hstep

/-- The sum that `CSADJ` complements, from the sum `s` of the data before the change (40_checksum.md R125). -/
def adjustedSum (zb : Bool) (s : Nat) (old new : List Byte) : Nat :=
  (words new).foldl csumAdd ((words old).foldl (csumSub zb) s)

/-- The adjusted sum is the sum of the changed data modulo 0xFFFF, and `CSADJ_ZERO_BORROWS` says which of the two zeros it
cannot wrongly be (40_checksum.md R127). -/
theorem adjustedSum_spec (zb : Bool) (rest : Nat) (old new : List Byte) :
    let r := adjustedSum zb (foldedSum (rest + weightedSum old)) old new
    r ≤ 0xFFFF ∧ r % 0xFFFF = (rest + weightedSum new) % 0xFFFF
      ∧ (zb = false → r = 0xFFFF → rest + weightedSum new ≠ 0)
      ∧ (zb = true → r = 0 → rest + weightedSum new = 0) := by
  have hs := foldedSum_le (rest + weightedSum old)
  have hmod := foldedSum_mod (rest + weightedSum old)
  have hzero := foldedSum_eq_zero_iff (rest + weightedSum old)
  have hold : ((words old).map BitVec.toNat).sum = weightedSum old := wordSum_eq_weightedSum old
  have hnew : ((words new).map BitVec.toNat).sum = weightedSum new := wordSum_eq_weightedSum new
  obtain ⟨hsubLe, hsubMod⟩ := foldl_csumSub_spec zb (words old) hs
  obtain ⟨haddLe, haddMod, haddZero⟩ := foldl_csumAdd_spec (words new) hsubLe
  rw [hold] at hsubMod
  rw [hnew] at haddMod haddZero
  refine ⟨haddLe, ?_, ?_, ?_⟩
  · rw [adjustedSum]
    omega
  · rintro rfl hr hsum
    rw [adjustedSum] at hr
    obtain ⟨hstart, hnothing⟩ := foldl_csumSub_false_eq_ffff (words old) hs (by omega)
    omega
  · rintro rfl hr
    obtain ⟨hsub, hadded⟩ := haddZero.1 hr
    have hstart := foldl_csumSub_true_eq_zero (words old) hs (by omega) hsub
    omega

/-- `CSADJ` started from a checksum complements the adjusted folded sum. -/
theorem toNat_adjustChecksum_checksum (zb : Bool) (b old new : List Byte)
    (hle : adjustedSum zb (foldedSum (weightedSum b)) old new ≤ 0xFFFF) :
    (adjustChecksum zb (checksum b) old new).toNat = 0xFFFF - adjustedSum zb (foldedSum (weightedSum b)) old new := by
  have hfold := foldedSum_le (weightedSum b)
  have hstart : (~~~ checksum b).toNat = foldedSum (weightedSum b) := by
    rw [BitVec.toNat_not, toNat_checksum]
    omega
  rw [adjustChecksum, hstart, ← adjustedSum, not_ofNat16 hle, BitVec.toNat_ofNat]
  omega

/-- Settles O11: both checksums are complements of sums that agree modulo 0xFFFF, so they differ at most by the zero they
choose, and `CSADJ_ZERO_BORROWS` fixes the direction. -/
theorem adjustAgreesWithFromScratch : Obligations.AdjustAgreesWithFromScratch := by
  intro zb b i j n hij hj heven htail
  obtain ⟨rest, hbefore, hafter⟩ := weightedSum_splice n hij hj heven htail
  obtain ⟨hle, hmod, hffff, hzero⟩ := adjustedSum_spec zb rest (slice b i j) n
  rw [← hbefore] at hle hmod hffff hzero
  rw [← hafter] at hmod hffff hzero
  have hadjust := toNat_adjustChecksum_checksum zb b (slice b i j) n hle
  have hscratch := toNat_checksum (b.take i ++ n ++ b.drop j)
  have hfoldLe := foldedSum_le (weightedSum (b.take i ++ n ++ b.drop j))
  have hfoldMod := foldedSum_mod (weightedSum (b.take i ++ n ++ b.drop j))
  have hfoldZero := foldedSum_eq_zero_iff (weightedSum (b.take i ++ n ++ b.drop j))
  set r := adjustedSum zb (foldedSum (weightedSum b)) (slice b i j) n
  set f := foldedSum (weightedSum (b.take i ++ n ++ b.drop j))
  have hzeros : r = f ∨ r = 0 ∧ f = 0xFFFF ∨ r = 0xFFFF ∧ f = 0 := by omega
  rcases hzeros with hsame | ⟨hr, hf⟩ | ⟨hr, hf⟩
  · left
    rw [BitVec.toNat_eq, hadjust, hscratch, hsame]
  · right; left
    have hzb : zb = false := Bool.eq_false_of_not_eq_true fun hzb => by
      have := hzero hzb hr
      omega
    rw [BitVec.toNat_eq, BitVec.toNat_eq, hadjust, hscratch, hr, hf]
    exact ⟨hzb, rfl, rfl⟩
  · right; right
    have hzb : zb = true := Bool.eq_true_of_not_eq_false fun hzb => hffff hzb hr (hfoldZero.1 hf)
    rw [BitVec.toNat_eq, BitVec.toNat_eq, hadjust, hscratch, hr, hf]
    exact ⟨hzb, rfl, rfl⟩

end Sys2Proof.Machine

/-!
The ARP cache (spec/41_arp_cache.md R142, R146, R150, R152). An attached command runs the operation of its unit, so each
statement comes down to that operation: which of its branches a lookup or an update takes, and what repeated ticks make
of one entry.
-/

namespace Sys2Proof.Machine

/-! ### What an attached command runs -/

theorem exec_arpLookup_of_some {s : State} {m : MacAddr} (ha : s.ctrl.attached = true)
    (hm : arpLookup s s.port.opIp = some m) :
    exec .arpLookup s = .next (({ s with port := { s.port with resMac := m } } : State).withStatus 0#8) := by
  simp only [exec, execArpLookup, whenAttached_attached ha, hm, finish_eq, Status.code]

theorem exec_arpLookup_of_none {s : State} (ha : s.ctrl.attached = true) (hm : arpLookup s s.port.opIp = none) :
    exec .arpLookup s = .next (s.withStatus 1#8) := by
  simp only [exec, execArpLookup, whenAttached_attached ha, hm, finish_eq, Status.code]

theorem exec_arpUpdate_attached {s : State} (ha : s.ctrl.attached = true) :
    exec .arpUpdate s = .next (ended (arpUpdate s s.port.opIp s.port.opMac s.port.opAge)) :=
  whenAttached_attached ha

theorem exec_arpAge_attached {s : State} (ha : s.ctrl.attached = true) :
    exec .arpAge s = .next ((arpAgeTick s).withStatus 0#8) :=
  whenAttached_attached ha

theorem exec_arpReq_attached {s : State} (ha : s.ctrl.attached = true) :
    exec .arpReq s = .next (ended (arpSendRequest s s.port.opIp)) :=
  whenAttached_attached ha

/-- A command that ends with one send leaves the state after the send and the send's status. -/
theorem ended_sendFrame (s : State) (f : List Byte) :
    ended (s.sendFrame f) = (s.afterSend f).withStatus (s.sendCode 0#8) := by
  rw [ended, State.sendFrame_fst, State.sendFrame_code]

/-! ### Lookup -/

/-- Settles O13: a lookup that finds the lowest matching entry is a hit, one with no match or for address 0 a miss. -/
theorem arpLookupAnswersLowestMatch : Obligations.ArpLookupAnswersLowestMatch := by
  intro s ha
  refine ⟨fun i e h0 he hlow => ?_, fun hmiss => ?_⟩
  · have hhit : arpLookup s s.port.opIp = some e.linkAddr :=
      (arpLookup_eq_some_iff _ _ _).2 ⟨h0, i, e, hlow, he, rfl⟩
    exact exec_arpLookup_of_some ha hhit
  · exact exec_arpLookup_of_none ha ((arpLookup_eq_none_iff _ _).2 hmiss)

/-! ### Update, one equation per case of R146 -/

section Update

variable {s : State} {ip : IpAddr} {i : Nat} (m : MacAddr) (a : BitVec 16)

theorem arpUpdate_zero (s : State) : arpUpdate s 0#32 m a = (s, .ok) := if_pos rfl

theorem arpUpdate_of_match {e : ArpEntry} (h0 : ip ≠ 0#32) (he : s.arp[i]? = some e)
    (hlow : LowestIndex s.arp (fun e => e.ip = ip) i) :
    arpUpdate s ip m a = ({ s with arp := s.arp.set i (e.refresh s.params m a) }, .ok) := by
  have hfind : arpFind s.arp ip = some i := (arpFind_eq_some_iff _ _ _).2 ⟨h0, hlow⟩
  simp only [arpUpdate, if_neg h0, hfind, List.modify_eq_set_getElem?, he, Option.map_some, Option.getD_some,
    Option.map_eq_map]

theorem arpUpdate_of_no_match (h0 : ip ≠ 0#32) (hno : ∀ e ∈ s.arp, e.ip ≠ ip) :
    arpUpdate s ip m a = match (arpFreeSlot s.arp).or (arpOldest s.params s.arp) with
      | some i => ({ s with arp := s.arp.set i ⟨ip, m, a⟩ }, .ok)
      | none => (s.count .arpNospace, .arpNoslot) := by
  have hfind : arpFind s.arp ip = none := (arpFind_eq_none_iff _ _).2 (.inr hno)
  simp only [arpUpdate, if_neg h0, hfind]
  cases arpFreeSlot s.arp <;> rfl

theorem arpUpdate_of_free (h0 : ip ≠ 0#32) (hno : ∀ e ∈ s.arp, e.ip ≠ ip)
    (hlow : LowestIndex s.arp (fun e => e.ip = 0#32) i) :
    arpUpdate s ip m a = ({ s with arp := s.arp.set i ⟨ip, m, a⟩ }, .ok) := by
  rw [arpUpdate_of_no_match m a h0 hno, (arpFreeSlot_eq_some_iff _ _).2 hlow, Option.some_or]

theorem arpUpdate_of_oldest (h0 : ip ≠ 0#32) (hno : ∀ e ∈ s.arp, e.ip ≠ ip ∧ e.ip ≠ 0#32)
    (hlow : LowestIndex s.arp (fun e => e.age ≠ s.params.arpStaticAge
      ∧ ∀ f ∈ s.arp, f.age ≠ s.params.arpStaticAge → f.age.toInt ≤ e.age.toInt) i) :
    arpUpdate s ip m a = ({ s with arp := s.arp.set i ⟨ip, m, a⟩ }, .ok) := by
  have hfull : arpFreeSlot s.arp = none := (arpFreeSlot_eq_none_iff _).2 fun e he => (hno e he).2
  rw [arpUpdate_of_no_match m a h0 fun e he => (hno e he).1, hfull, Option.none_or,
    (arpOldest_eq_some_iff _ _ _).2 hlow]

theorem arpUpdate_of_all_static (h0 : ip ≠ 0#32)
    (hno : ∀ e ∈ s.arp, e.ip ≠ ip ∧ e.ip ≠ 0#32 ∧ e.age = s.params.arpStaticAge) :
    arpUpdate s ip m a = (s.count .arpNospace, .arpNoslot) := by
  have hfull : arpFreeSlot s.arp = none := (arpFreeSlot_eq_none_iff _).2 fun e he => (hno e he).2.1
  rw [arpUpdate_of_no_match m a h0 fun e he => (hno e he).1, hfull, Option.none_or,
    (arpOldest_eq_none_iff _ _).2 fun e he => (hno e he).2.2]

end Update

/-- Settles O14: each clause is one case of the update, ended with its status. -/
theorem arpUpdateCases : Obligations.ArpUpdateCases := by
  intro s ha
  rw [exec_arpUpdate_attached ha]
  refine ⟨fun h0 => ?_, fun i e h0 he hlow => ?_, fun i h0 hno hlow => ?_, fun i h0 hno hlow => ?_,
    fun h0 hno => ?_⟩
  · rw [h0, arpUpdate_zero]; rfl
  · rw [arpUpdate_of_match _ _ h0 he hlow]; rfl
  · rw [arpUpdate_of_free _ _ h0 hno hlow]; rfl
  · rw [arpUpdate_of_oldest _ _ h0 hno hlow]; rfl
  · rw [arpUpdate_of_all_static _ _ h0 hno]; rfl

/-! ### Ageing -/

/-- Any number of `ARP.AGE` commands answer, and make of each entry what as many ticks make of it. -/
theorem repeatCommand_arpAge (n : Nat) : ∀ {s : State} {i : Nat} {e : ArpEntry}, s.ctrl.attached = true →
    s.arp[i]? = some e →
    ∃ t, repeatCommand .arpAge n s = some t ∧ t.arp[i]? = some ((ArpEntry.tick s.params)^[n] e) := by
  induction n with
  | zero => exact fun _ he => ⟨_, rfl, he⟩
  | succ n ih =>
    intro s i e ha he
    have hnext : ((arpAgeTick s).withStatus 0#8).arp[i]? = some (e.tick s.params) := by simp [he]
    simp only [repeatCommand, exec_arpAge_attached ha]
    exact ih (s := (arpAgeTick s).withStatus 0#8) ha hnext

/-- With legal ages, below the sign bit, a tick counts a dynamic entry up until it exceeds the maximum. -/
theorem ArpEntry.tick_of_age {p : Params} (hp : p.agesOk = true) {e : ArpEntry} (h0 : e.ip ≠ 0#32) {n : Nat}
    (hn : n ≤ p.arpMaxAge) :
    ({ e with age := BitVec.ofNat 16 n } : ArpEntry).tick p
      = if p.arpMaxAge < n + 1 then ArpEntry.zero else { e with age := BitVec.ofNat 16 (n + 1) } := by
  simp only [Params.agesOk, Bool.and_eq_true, decide_eq_true_eq, beq_iff_eq] at hp
  obtain ⟨hmax, hstatic⟩ := hp
  have hdynamic : BitVec.ofNat 16 n ≠ p.arpStaticAge := by
    rw [hstatic]
    bv_omega
  have hcount : (BitVec.ofNat 16 n + 1#16).toNat = n + 1 := by bv_omega
  have hnext : (BitVec.ofNat 16 n + 1#16).toInt = n + 1 := by
    rw [BitVec.toInt_eq_toNat_of_lt (by omega), hcount, Nat.cast_succ]
  rw [ArpEntry.tick_eq, if_pos ⟨h0, hdynamic⟩, hnext, BitVec.ofNat_add]
  norm_cast

/-- Up to `ARP_MAX_AGE` ticks, the age of an entry inserted with age 0 is the number of ticks. -/
theorem ArpEntry.tick_iterate_of_le {p : Params} (hp : p.agesOk = true) {e : ArpEntry} (h0 : e.ip ≠ 0#32)
    (hage : e.age = 0#16) {n : Nat} (hn : n ≤ p.arpMaxAge) :
    (ArpEntry.tick p)^[n] e = { e with age := BitVec.ofNat 16 n } := by
  induction n with
  | zero => rw [Function.iterate_zero_apply, ← hage]
  | succ n ih =>
    rw [Function.iterate_succ_apply', ih (Nat.le_of_succ_le hn), ArpEntry.tick_of_age hp h0 (Nat.le_of_succ_le hn),
      if_neg (Nat.not_lt.2 hn)]

/-- The tick after `ARP_MAX_AGE` ticks frees it. -/
theorem ArpEntry.tick_iterate_succ_maxAge {p : Params} (hp : p.agesOk = true) {e : ArpEntry} (h0 : e.ip ≠ 0#32)
    (hage : e.age = 0#16) : (ArpEntry.tick p)^[p.arpMaxAge + 1] e = ArpEntry.zero := by
  rw [Function.iterate_succ_apply', ArpEntry.tick_iterate_of_le hp h0 hage le_rfl, ArpEntry.tick_of_age hp h0 le_rfl,
    if_pos (Nat.lt_succ_self _)]

theorem ArpEntry.tick_of_static {p : Params} {e : ArpEntry} (hage : e.age = p.arpStaticAge) : e.tick p = e := by
  rw [ArpEntry.tick_eq, if_neg fun h => h.2 hage]

/-- Settles O15: one tick by its equation, the two lifetimes by iterating it on one entry. -/
theorem arpAgeingFreesAfterMaxAge : Obligations.ArpAgeingFreesAfterMaxAge := by
  refine ⟨fun s ha => ?_, fun s i e ha hp he h0 hage => ⟨fun n hn => ?_, ?_⟩, fun s i e n ha he _ hage => ?_⟩
  · rw [exec_arpAge_attached ha, arpAgeTick, funext (ArpEntry.tick_eq s.params)]
    rfl
  · rw [← ArpEntry.tick_iterate_of_le hp h0 hage hn]
    exact repeatCommand_arpAge n ha he
  · rw [← ArpEntry.tick_iterate_succ_maxAge hp h0 hage]
    exact repeatCommand_arpAge _ ha he
  · simpa only [Function.iterate_fixed (ArpEntry.tick_of_static hage)] using repeatCommand_arpAge n ha he

/-! ### Request -/

/-- Settles O16: the command is one send of the request frame. -/
theorem arpReqSendsOneRequest : Obligations.ArpReqSendsOneRequest := by
  intro s ha
  rw [exec_arpReq_attached ha, arpSendRequest, arpRequestFrame_eq, ended_sendFrame]

end Sys2Proof.Machine

/-!
The retry queue (spec/42_retry_queue.md R172, R176, R178). An enqueue has one equation per outcome, a tick acts on each
slot by itself, so that a packet's life is the iteration of the slot's tick, and a flush is a run of sends.
-/

namespace Sys2Proof.Machine

/-! ### Enqueueing, one equation per outcome of R172 -/

section Enqueue

variable {s : State} {d : IpAddr} {b : List Byte}

theorem rqEnqueue_of_length (hb : b.length < 20 ∨ s.params.ipMaxLen < b.length) :
    rqEnqueue s d b = (s.count .txDiscard, .discarded) := if_pos hb

theorem rqEnqueue_of_no_route (hb : ¬ (b.length < 20 ∨ s.params.ipMaxLen < b.length)) (h0 : nextHop s d = 0#32) :
    rqEnqueue s d b = (s.count .noRoute, .noRoute) := by
  rw [rqEnqueue, if_neg hb, if_pos h0]

theorem rqEnqueue_of_full (hb : ¬ (b.length < 20 ∨ s.params.ipMaxLen < b.length)) (h0 : nextHop s d ≠ 0#32)
    (hfull : ∀ e ∈ s.rq, e.used = true) : rqEnqueue s d b = (s.count .rqFull, .queueFull) := by
  rw [rqEnqueue, if_neg hb, if_neg h0, (rqFreeSlot_eq_none_iff _).2 hfull]

theorem rqEnqueue_of_free {i : Nat} (hb : ¬ (b.length < 20 ∨ s.params.ipMaxLen < b.length)) (h0 : nextHop s d ≠ 0#32)
    (hlow : LowestIndex s.rq (fun e => e.used = false) i) :
    rqEnqueue s d b
      = (({ s with rq := s.rq.set i ⟨true, b, BitVec.ofNat 16 b.length, nextHop s d, s.params.rqLife⟩ } :
            State).afterSend (specArpRequest s (nextHop s d)),
          if s.answerAt 0 = .err then .txFail else .queued) := by
  rw [rqEnqueue, if_neg hb, if_neg h0, (rqFreeSlot_eq_some_iff _ _).2 hlow]
  simp only [arpSendRequest_eq]
  refine Prod.ext rfl ?_
  change (if (if s.answerAt 0 = .err then Status.txFail else .ok) = .txFail then Status.txFail else .queued) = _
  split <;> rfl

end Enqueue

/-- Settles O20: each clause is one outcome of the enqueue of the operand, ended with its status. -/
theorem rqEnqQueuesAndAsks : Obligations.RqEnqQueuesAndAsks := by
  intro s ha hl
  obtain ⟨-, -, -, henq, -⟩ := exec_attached_bufA ha hl
  have storable : 20 ≤ s.operandA.length → s.operandA.length ≤ s.params.ipMaxLen →
      ¬ (s.operandA.length < 20 ∨ s.params.ipMaxLen < s.operandA.length) := by omega
  rw [henq]
  refine ⟨fun hb => ?_, fun hmin hmax h0 => ?_, fun hmin hmax h0 hfull => ?_, fun i hmin hmax h0 hlow => ?_⟩
  · rw [rqEnqueue_of_length hb]; rfl
  · rw [rqEnqueue_of_no_route (storable hmin hmax) h0]; rfl
  · rw [rqEnqueue_of_full (storable hmin hmax) h0 hfull]; rfl
  · rw [rqEnqueue_of_free (storable hmin hmax) h0 hlow, State.sendCode, apply_ite Status.code]; rfl

/-! ### Ageing -/

/-- A used slot with life left expires on its last tick (42_retry_queue.md R176). -/
theorem RqSlot.expires_eq {e : RqSlot} (h : e.used = true → e.life ≠ 0#32) :
    e.expires = (e.used && e.life == 1#32) := by
  cases hu : e.used
  · simp [RqSlot.expires, hu]
  · have hdown : down e.life = e.life - 1#32 := if_neg (h hu)
    have hlast : e.life - 1#32 = 0#32 ↔ e.life = 1#32 := by bv_omega
    simp only [RqSlot.expires, hu, hdown, Bool.true_and, Bool.beq_eq_decide_eq, hlast]

/-- If a command turns each entry of a table into its tick, any number of them make of an entry what as many ticks make
of it. -/
theorem repeatCommand_table {α : Type} {c : Instr} {f : State → State} (table : State → List α) {tick : α → α}
    (hrun : ∀ s : State, s.ctrl.attached = true → exec c s = .next (f s)) (hctrl : ∀ s, (f s).ctrl = s.ctrl)
    (htable : ∀ s, table (f s) = (table s).map tick) (n : Nat) {s : State} {i : Nat} {e : α}
    (ha : s.ctrl.attached = true) (he : (table s)[i]? = some e) :
    ∃ t, repeatCommand c n s = some t ∧ (table t)[i]? = some (tick^[n] e) := by
  induction n generalizing s e with
  | zero => exact ⟨s, rfl, he⟩
  | succ n ih =>
    have hnext : (table (f s))[i]? = some (tick e) := by rw [htable, List.getElem?_map, he, Option.map_some]
    simp only [repeatCommand, hrun s ha]
    exact ih (by rw [hctrl, ha]) hnext

theorem exec_rqTick_attached {s : State} (ha : s.ctrl.attached = true) :
    exec .rqTick s = .next ((rqTick s).withStatus 0#8) :=
  whenAttached_attached ha

theorem repeatCommand_rqTick {s : State} {i : Nat} {e : RqSlot} (n : Nat) (ha : s.ctrl.attached = true)
    (he : s.rq[i]? = some e) : ∃ t, repeatCommand .rqTick n s = some t ∧ t.rq[i]? = some (RqSlot.tick^[n] e) :=
  repeatCommand_table State.rq (fun _ => exec_rqTick_attached) (fun _ => rfl) rqTick_rq n ha he

/-- What a tick makes of a used slot with life `l` left. -/
theorem RqSlot.tick_with_life {e : RqSlot} (hu : e.used = true) {l : BitVec 32} (h0 : l ≠ 0#32) :
    ({ e with life := l } : RqSlot).tick = if l = 1#32 then RqSlot.zero else { e with life := l - 1#32 } := by
  rw [RqSlot.tick_eq fun _ => h0, if_pos hu]

/-- Fewer ticks than the life of a slot count it down and leave the packet. -/
theorem RqSlot.tick_iterate_of_lt {e : RqSlot} (hu : e.used = true) {k : Nat} (hk : k < e.life.toNat) :
    RqSlot.tick^[k] e = { e with life := e.life - BitVec.ofNat 32 k } := by
  induction k with
  | zero => simp
  | succ k ih =>
    rw [Function.iterate_succ_apply', ih (Nat.lt_of_succ_lt hk), RqSlot.tick_with_life hu (by bv_omega),
      if_neg (by bv_omega), BitVec.sub_sub, BitVec.ofNat_add]

/-- As many ticks as its life free a slot. -/
theorem RqSlot.tick_iterate_life {e : RqSlot} (hu : e.used = true) (h0 : e.life ≠ 0#32) :
    RqSlot.tick^[e.life.toNat] e = RqSlot.zero := by
  obtain ⟨n, hn⟩ : ∃ n, e.life.toNat = n + 1 := Nat.exists_eq_add_one.2 (by bv_omega)
  rw [hn, Function.iterate_succ_apply', RqSlot.tick_iterate_of_lt hu (by omega),
    RqSlot.tick_with_life hu (by bv_omega), if_pos (by bv_omega)]

/-- Settles O21: one tick slot by slot, the lifetime by iterating it on one slot. -/
theorem rqTickDropsAfterLife : Obligations.RqTickDropsAfterLife := by
  refine ⟨fun s ha hlife => ?_, fun s i e ha he hu h0 => ⟨fun k hk => ?_, ?_⟩⟩
  · have hmap : s.rq.map RqSlot.tick = s.rq.map _ := List.map_congr_left fun e he => RqSlot.tick_eq (hlife e he)
    have hcount : s.rq.countP RqSlot.expires = s.rq.countP (fun e => e.used && e.life == 1#32) :=
      List.countP_congr fun e he => by rw [RqSlot.expires_eq (hlife e he)]
    rw [exec_rqTick_attached ha, rqTick, hmap, hcount]
    rfl
  · rw [← RqSlot.tick_iterate_of_lt hu hk]
    exact repeatCommand_rqTick k ha he
  · have hdrop := repeatCommand_rqTick e.life.toNat ha he
    rw [RqSlot.tick_iterate_life hu h0] at hdrop
    exact hdrop

/-! ### Flushing -/

theorem exec_rqFlush_attached {s : State} (ha : s.ctrl.attached = true) :
    exec .rqFlush s = .next (ended (rqFlush s s.port.opIp s.port.opMac)) :=
  whenAttached_attached ha

/-- Settles O22: the sends of a flush in closed form, and the freed slots. -/
theorem rqFlushSendsAndFreesMatchingSlots : Obligations.RqFlushSendsAndFreesMatchingSlots := by
  intro s ha
  rw [exec_rqFlush_attached ha, rqFlush_eq, afterSends_eq]
  simp only [ended, List.map_map, List.length_map, apply_ite Status.code]
  rfl

end Sys2Proof.Machine

/-!
The translator (spec/43_translator.md R190 to R197, R210, R211, R216). Both directions are one rewrite, `readdress`: the
outbound one of the source, the inbound one of the destination. So each fact about what the rewrite answers is proved
once, and a direction only says which packets it passes through and which it rewrites.
-/

namespace Sys2Proof.Machine

/-! ### The translator-active predicate and storing the answer -/

theorem Identity.xlActive_eq_true_iff (i : Identity) :
    i.xlActive = true ↔ i.externalHostIp ≠ 0#32 ∧ i.externalHostIp ≠ i.ownIp := by
  simp [Identity.xlActive]

theorem Identity.xlActive_eq_false_iff (i : Identity) :
    i.xlActive = false ↔ i.externalHostIp = 0#32 ∨ i.externalHostIp = i.ownIp := by
  rw [← Bool.not_eq_true, Identity.xlActive_eq_true_iff, ← not_or, not_not]

/-- A packet as long as a decoded operand's total length fits `BUF_OUT`, and an `OK` answer stores it. -/
theorem storeOut_ok_of_length {s : State} {h : IpHeader} {q : List Byte} (hl : s.port.lenA.toNat ≤ s.params.bufCap)
    (hd : ipDecode s.operandA = some h) (hq : q.length = h.tl) :
    storeOut (s, .ok, some q) = .next (s.withOut q) := by
  obtain ⟨-, -, -, -, htl, -⟩ := ipDecode_some hd
  rw [State.length_operandA] at htl
  exact storeOut_some (hq ▸ htl.trans hl)

/-- A packet cut to its total length has that length. -/
theorem length_take_totalLength {b : List Byte} {h : IpHeader} (hd : ipDecode b = some h) :
    (b.take h.tl).length = h.tl := by
  obtain ⟨-, -, -, -, htl, -⟩ := ipDecode_some hd
  exact List.length_take_of_le htl

/-! ### The rewrite that both directions share -/

/-- The address at `off` of the header of `pkt` replaced by `new`, and the segment adjusted to it by its protocol; `tcp`
goes on with a TCP segment (43_translator.md R193 to R197, R211). -/
def readdress (s : State) (h : IpHeader) (pkt : List Byte) (off : Nat) (old new : IpAddr)
    (tcp : TcpHeader → List Byte → List Byte → XlResult) : XlResult :=
  let hdr := rewriteIpHeader s.params (pkt.take h.hl) off (be16 pkt 10) old new
  let seg := pkt.drop h.hl
  if h.fragOff ≠ 0#13 then (s, .ok, some (hdr ++ seg))
  else if h.proto = 17#8 then
    match udpDecode seg with
    | none => (s, .ok, some (hdr ++ seg))
    | some u => (s, .ok, some (hdr ++ rewriteUdp s.params seg u old new))
  else if h.proto = 6#8 then
    match tcpDecode seg with
    | none => (s, .ok, some (hdr ++ seg))
    | some t => tcp t hdr (adjustTcp s.params seg (bytes32 old) (bytes32 new))
  else (s, .ok, some (hdr ++ seg))

section Readdress

variable {s : State} {h : IpHeader} {pkt : List Byte} {off : Nat} {old new : IpAddr}
  {tcp : TcpHeader → List Byte → List Byte → XlResult}

/-- A fragment, another protocol and a truncated segment keep their payload (43_translator.md R195 to R197). -/
theorem readdress_of_opaque (hseg : h.fragOff ≠ 0#13 ∨ (h.proto ≠ 6#8 ∧ h.proto ≠ 17#8)
      ∨ (h.proto = 17#8 ∧ (pkt.drop h.hl).length < 8) ∨ (h.proto = 6#8 ∧ tcpDecode (pkt.drop h.hl) = none)) :
    readdress s h pkt off old new tcp = (s, .ok, some
      (rewriteIpHeader s.params (pkt.take h.hl) off (be16 pkt 10) old new ++ pkt.drop h.hl)) := by
  simp only [readdress]
  by_cases hfrag : h.fragOff ≠ 0#13
  · rw [if_pos hfrag]
  · rw [if_neg hfrag]
    rcases hseg with hfrag' | ⟨htcp, hudp⟩ | ⟨hudp, hshort⟩ | ⟨htcp, hnone⟩
    · exact absurd hfrag' hfrag
    · rw [if_neg hudp, if_neg htcp]
    · rw [if_pos hudp, udpDecode_eq, if_neg (Nat.not_le.2 hshort)]
    · have hudp : h.proto ≠ 17#8 := by rw [htcp]; decide
      rw [if_neg hudp, if_pos htcp, hnone]

/-- A UDP checksum is adjusted unless it is 0 (43_translator.md R196). -/
theorem readdress_of_udp (hfrag : h.fragOff = 0#13) (hproto : h.proto = 17#8) (hlen : 8 ≤ (pkt.drop h.hl).length) :
    readdress s h pkt off old new tcp = (s, .ok, some
      (rewriteIpHeader s.params (pkt.take h.hl) off (be16 pkt 10) old new ++
        if be16 (pkt.drop h.hl) 6 = 0#16 then pkt.drop h.hl
        else put16 (pkt.drop h.hl) 6 (adjustCsum s.params (be16 (pkt.drop h.hl) 6) (bytes32 old) (bytes32 new)))) := by
  simp only [readdress]
  rw [if_neg (not_not.2 hfrag), if_pos hproto, udpDecode_eq, if_pos hlen]
  rfl

end Readdress

/-! ### The two directions -/

section Directions

variable {s : State} {b : List Byte} {h : IpHeader}

theorem xlOut_of_undecodable (hd : ipDecode b = none) : xlOut s b = (s.count .txDiscard, .discarded, none) := by
  simp only [xlOut, hd]

theorem xlIn_of_undecodable (hd : ipDecode b = none) : xlIn s b = (s.count .rxDiscard, .discarded, none) := by
  simp only [xlIn, hd]

theorem xlOut_of_passes (hd : ipDecode b = some h)
    (hpass : s.ident.xlActive = false ∨ h.src ≠ s.ident.externalHostIp) :
    xlOut s b = (s, .ok, some (b.take h.tl)) := by
  simp only [xlOut, hd]
  rw [if_pos hpass]

theorem xlIn_of_passes (hd : ipDecode b = some h) (hpass : s.ident.xlActive = false ∨ h.dst ≠ s.ident.ownIp) :
    xlIn s b = (s, .ok, some (b.take h.tl)) := by
  simp only [xlIn, hd]
  rw [if_pos hpass]

/-- The cut leaves the header checksum where it stands. -/
theorem csum_eq_be16_take (hd : ipDecode b = some h) : h.csum = be16 (b.take h.tl) 10 := by
  obtain ⟨-, -, hhl, htl, -, -, hcsum, -⟩ := ipDecode_some hd
  rw [hcsum, be16_take (by omega)]

theorem xlOut_of_translates (hd : ipDecode b = some h) (hact : s.ident.xlActive = true)
    (hsrc : h.src = s.ident.externalHostIp) :
    xlOut s b = readdress s h (b.take h.tl) 12 s.ident.externalHostIp s.ident.ownIp (xlOutTcp s h) := by
  have htest : ¬ (s.ident.xlActive = false ∨ h.src ≠ s.ident.externalHostIp) := by simp [hact, hsrc]
  simp only [xlOut, hd]
  rw [if_neg htest, hsrc, csum_eq_be16_take hd]
  rfl

theorem xlIn_of_translates (hd : ipDecode b = some h) (hact : s.ident.xlActive = true)
    (hdst : h.dst = s.ident.ownIp) :
    xlIn s b = readdress s h (b.take h.tl) 16 s.ident.ownIp s.ident.externalHostIp (xlInTcp s) := by
  have htest : ¬ (s.ident.xlActive = false ∨ h.dst ≠ s.ident.ownIp) := by simp [hact, hdst]
  simp only [xlIn, hd]
  rw [if_neg htest, hdst, csum_eq_be16_take hd]
  rfl

end Directions

/-- A header and a segment as long as the packet's own fill its total length. -/
theorem length_header_append_segment {b hdr seg : List Byte} {h : IpHeader} (hd : ipDecode b = some h)
    (hhdr : hdr.length = ((b.take h.tl).take h.hl).length) (hseg : seg.length = ((b.take h.tl).drop h.hl).length) :
    (hdr ++ seg).length = h.tl := by
  rw [List.length_append, hhdr, hseg, ← List.length_append, List.take_append_drop, length_take_totalLength hd]

/-- Settles O24: an inactive translator passes every packet that decodes, and the cut packet fits the buffer. -/
theorem inactiveTranslatorPassesPacketsThrough : Obligations.InactiveTranslatorPassesPacketsThrough := by
  intro s h ha hl hinactive hd
  obtain ⟨hout, hin⟩ := exec_attached_xl ha hl
  have hoff : s.ident.xlActive = false := s.ident.xlActive_eq_false_iff.2 hinactive
  have hstore : storeOut (s, .ok, some (s.operandA.take h.tl)) = .next (s.withOut (s.operandA.take h.tl)) :=
    storeOut_ok_of_length hl hd (length_take_totalLength hd)
  rw [hout, hin, xlOut_of_passes hd (.inl hoff), xlIn_of_passes hd (.inl hoff)]
  exact ⟨hstore, hstore⟩

/-- Settles O25: outbound, the packets of the translated host are readdressed at the source, all others pass. -/
theorem xlOutRewritesSource : Obligations.XlOutRewritesSource := by
  intro s ha hl
  rw [(exec_attached_xl ha hl).1]
  refine ⟨fun hd => ?undecodable, fun h hd h0 hne => ?_⟩
  case undecodable => rw [xlOut_of_undecodable hd]; rfl
  have hact : s.ident.xlActive = true := s.ident.xlActive_eq_true_iff.2 ⟨h0, hne⟩
  refine ⟨fun hsrc => ?_, fun hsrc hseg => ?_, fun hsrc hfrag hproto hlen => ?_⟩
  · rw [xlOut_of_passes hd (.inr hsrc)]
    exact storeOut_ok_of_length hl hd (length_take_totalLength hd)
  · rw [xlOut_of_translates hd hact hsrc, readdress_of_opaque hseg]
    exact storeOut_ok_of_length hl hd (length_header_append_segment hd (by simp) rfl)
  · rw [xlOut_of_translates hd hact hsrc, readdress_of_udp hfrag hproto hlen]
    exact storeOut_ok_of_length hl hd (length_header_append_segment hd (by simp) (by split <;> simp))

/-- Settles O26: inbound, the packets for `own_ip` are readdressed at the destination, all others pass. -/
theorem xlInRewritesDestination : Obligations.XlInRewritesDestination := by
  intro s ha hl
  rw [(exec_attached_xl ha hl).2]
  refine ⟨fun hd => ?undecodable, fun h hd h0 hne => ?_⟩
  case undecodable => rw [xlIn_of_undecodable hd]; rfl
  have hact : s.ident.xlActive = true := s.ident.xlActive_eq_true_iff.2 ⟨h0, hne⟩
  refine ⟨fun hdst => ?_, fun hdst hseg => ?_, fun hdst hfrag hproto hlen => ?_⟩
  · rw [xlIn_of_passes hd (.inr hdst)]
    exact storeOut_ok_of_length hl hd (length_take_totalLength hd)
  · rw [xlIn_of_translates hd hact hdst, readdress_of_opaque hseg]
    exact storeOut_ok_of_length hl hd (length_header_append_segment hd (by simp) rfl)
  · rw [xlIn_of_translates hd hact hdst, readdress_of_udp hfrag hproto hlen]
    exact storeOut_ok_of_length hl hd (length_header_append_segment hd (by simp) (by split <;> simp))

/-! ### The close timers -/

/-- Settles O32: the command is the tick of every entry, and `PmapEntry.tick_eq` is the rule. -/
theorem pmTickCountsDownAndClears : Obligations.PmTickCountsDownAndClears := by
  intro s ha
  obtain ⟨-, -, hrun, -⟩ := exec_attached ha
  rw [hrun, pmapTick, funext PmapEntry.tick_eq]
  rfl

end Sys2Proof.Machine

/-!
The DHCP client (spec/44_dhcp.md R245 to R266). Each event of the state machine is one send between register writes: so
what a message sends is said once, each transition of the dispatch is one equation, and a statement names its transition
and reads off the registers.
-/

namespace Sys2Proof.Machine

/-! ### What the commands answer -/

theorem exec_dhTick_attached {s : State} (ha : s.ctrl.attached = true) : exec .dhTick s = .next (ended (dhTick s)) :=
  whenAttached_attached ha

theorem exec_dhRel_attached {s : State} (ha : s.ctrl.attached = true) : exec .dhRel s = .next (ended (dhRelease s)) :=
  whenAttached_attached ha

/-- A datagram that passes the common tests is dispatched on its type (44_dhcp.md R240). -/
theorem exec_dhRx_validated {s : State} {r : DhReply} (ha : s.ctrl.attached = true)
    (hl : s.port.lenA.toNat ≤ s.params.bufCap) (hv : dhValidate s s.operandA = some r) :
    exec .dhRx s = .next (ended (dhDispatch s r)) := by
  obtain ⟨-, -, -, -, hrx⟩ := exec_attached_bufA ha hl
  have hdispatch : dhReceive s s.operandA = dhDispatch s r := by simp only [dhReceive, hv]
  rw [hrx, hdispatch]
  rfl

/-! ### What a message sends -/

theorem dhSend_of_frame {s : State} {k : DhMessage} {f : List Byte} (hf : dhMessageFrame s k = some f) :
    dhSend s k = (s.afterSend f, if s.answerAt 0 = .err then .txFail else .ok) := by
  rw [dhSend_eq, hf]

/-- A unicast message to an unknown link address is not sent (44_dhcp.md R233). -/
theorem dhSend_of_no_frame {s : State} {k : DhMessage} (hf : dhMessageFrame s k = none) : dhSend s k = (s, .ok) := by
  rw [dhSend_eq, hf]

/-- The status of a send, as a code. -/
theorem code_sendStatus (s : State) : (if s.answerAt 0 = .err then Status.txFail else .ok).code = s.sendCode 0#8 := by
  rw [← State.sendFrame_code s [], State.sendFrame_eq]

/-- Of the DHCP registers a message reads the transaction id, the address and the server. -/
theorem dhMessageFrame_setDhcp {s : State} {d : Dhcp} (hx : d.transactionId = s.dhcp.transactionId)
    (haddr : d.address = s.dhcp.address) (hserver : d.dhcpServer = s.dhcp.dhcpServer) (k : DhMessage) :
    dhMessageFrame (s.setDhcp d) k = dhMessageFrame s k := by
  have hmessage : ∀ c o, dhMessage (s.setDhcp d) c o = dhMessage s c o := dhMessage_congr rfl rfl hx
  have hframe : ∀ m src dst p, dhFrame (s.setDhcp d) m src dst p = dhFrame s m src dst p := dhFrame_congr rfl rfl
  have hlookup : ∀ ip, arpLookup (s.setDhcp d) ip = arpLookup s ip := arpLookup_congr rfl
  have hoptions : dhOptions d k = dhOptions s.dhcp k := by cases k <;> simp only [dhOptions, haddr, hserver]
  cases k <;>
    simp only [dhMessageFrame, State.setDhcp_dhcp, State.setDhcp_ident, hmessage, hframe, hlookup, hoptions, hserver]

/-! ### Counting down -/

/-- A counter is 0 after the tick that finds it at 1 or 0. -/
theorem down_eq_zero_iff {w : Nat} (x : BitVec w) : down x = 0#w ↔ x.toNat ≤ 1 := by
  by_cases h0 : x = 0#w
  · simp [down, h0]
  · have hdown : down x = x - 1#w := if_neg h0
    have hpos : 1 ≤ x.toNat := Nat.pos_of_ne_zero fun h => h0 (BitVec.eq_of_toNat_eq h)
    have hone : (1#w).toNat = 1 := Nat.mod_eq_of_lt (lt_of_le_of_lt hpos x.isLt)
    have hsub : (x - 1#w).toNat = x.toNat - 1 := by rw [BitVec.toNat_sub_of_le (by rwa [BitVec.le_def, hone]), hone]
    rw [hdown, ← BitVec.toNat_inj, hsub, BitVec.toNat_zero]
    omega

theorem down_ne_zero {w : Nat} {x : BitVec w} (h : 1 < x.toNat) : down x ≠ 0#w :=
  mt (down_eq_zero_iff x).1 (Nat.not_le.2 h)

/-! ### The tick in `Selecting` and `Requesting` -/

/-- While the wait runs, a retransmission only counts it down (44_dhcp.md R252). -/
theorem dhRetry_waits {s : State} (k : DhMessage) (h : 1 < s.dhcp.retryWait.toNat) :
    dhRetry s k = (s.setDhcp { s.dhcp with retryWait := s.dhcp.retryWait - 1#16 }, .ok) := by
  rcases dhRetry_cases s k with ⟨-, hwait⟩ | ⟨hdue, -⟩
  · exact hwait
  · exact absurd h (Nat.not_lt.2 hdue)

/-- When the wait has run out, the message is sent and the backoff doubles up to its ceiling (44_dhcp.md R252). -/
theorem ended_dhRetry_of_due {s : State} {k : DhMessage} {f : List Byte} (h : s.dhcp.retryWait.toNat ≤ 1)
    (hf : dhMessageFrame s k = some f) :
    ended (dhRetry s k) = ({ s.afterSend f with dhcp := { s.dhcp with
      retryBackoff := dhNextBackoff s.params s.dhcp.retryBackoff,
      retryWait := dhNextBackoff s.params s.dhcp.retryBackoff } } : State).withStatus (s.sendCode 0#8) := by
  rcases dhRetry_cases s k with ⟨hwait, -⟩ | ⟨-, r, rfl, hdue⟩
  · exact absurd hwait (Nat.not_lt.2 h)
  · have hframe : dhMessageFrame (s.setDhcp { s.dhcp with retryWait := 0#16 }) k = some f :=
      (dhMessageFrame_setDhcp rfl rfl rfl k).trans hf
    rw [hdue, dhSend_of_frame hframe]
    simp only [ended, code_sendStatus]
    rfl

/-- Each of the two states retransmits its own message (44_dhcp.md R252, R256). -/
theorem dhTick_retransmits {s : State} (hstate : s.dhcp.state = .selecting ∨ s.dhcp.state = .requesting) :
    ∃ k, dhTick s = dhRetry s k
      ∧ dhMessageFrame s k = some (dhFrame s macBcast 0#32 ipBcast (dhMessage s 0#32
          (if s.dhcp.state = .selecting then dhOptions s.dhcp .discover else dhOptions s.dhcp .requestSelecting))) := by
  rcases hstate with hs | hs
  · exact ⟨.discover, by simp only [dhTick, hs], by rw [if_pos hs]; rfl⟩
  · exact ⟨.requestSelecting, by simp only [dhTick, hs], by rw [if_neg (by simp [hs])]; rfl⟩

/-- Settles O35: the tick is the retransmission of the state's message, which waits or is due. -/
theorem dhTickRetransmitsWithBackoff : Obligations.DhTickRetransmitsWithBackoff := by
  intro s ha hstate
  obtain ⟨k, htick, hframe⟩ := dhTick_retransmits hstate
  rw [exec_dhTick_attached ha, htick]
  refine ⟨fun hwait => ?_, fun hdue => ?_⟩
  · rw [dhRetry_waits k hwait]
    rfl
  · rw [ended_dhRetry_of_due hdue hframe]
    rfl

/-! ### The tick in a bound state -/

theorem DhState.isBound_iff (d : DhState) : d.isBound = true ↔ d = .bound ∨ d = .renewing ∨ d = .rebinding := by
  cases d <;> decide

section Bound

variable {s : State}

theorem dhTick_of_isBound (h : s.dhcp.state.isBound = true) : dhTick s = dhTickBound s := by
  rcases (DhState.isBound_iff _).1 h with hs | hs | hs <;> simp only [dhTick, hs]

/-- Expiry is tested first (44_dhcp.md R248, R259). -/
theorem dhTickBound_expires (hlease : s.dhcp.leaseSeconds.toNat ≤ 1) :
    dhTickBound s = ((dhCountDown s).dhcpCleared, .ok) :=
  if_pos ((down_eq_zero_iff _).2 hlease)

/-- Renewal is tested second (44_dhcp.md R248, R257). -/
theorem dhTickBound_renews (hlease : 1 < s.dhcp.leaseSeconds.toNat) (hs : s.dhcp.state = .bound)
    (hrenew : s.dhcp.renewAt.toNat ≤ 1) : dhTickBound s = dhRenew (dhCountDown s) :=
  (if_neg (down_ne_zero hlease)).trans (if_pos ⟨hs, (down_eq_zero_iff _).2 hrenew⟩)

/-- Rebinding is tested last (44_dhcp.md R248, R260). -/
theorem dhTickBound_rebinds (hlease : 1 < s.dhcp.leaseSeconds.toNat) (hs : s.dhcp.state = .renewing)
    (hrebind : s.dhcp.rebindAt.toNat ≤ 1) : dhTickBound s = dhRebind (dhCountDown s) := by
  have hnot : ¬ (s.dhcp.state = .bound ∧ down s.dhcp.renewAt = 0#32) := by simp [hs]
  exact (if_neg (down_ne_zero hlease)).trans ((if_neg hnot).trans (if_pos ⟨hs, (down_eq_zero_iff _).2 hrebind⟩))

theorem dhTickBound_counts (hlease : 1 < s.dhcp.leaseSeconds.toNat)
    (hrenew : s.dhcp.state = .bound → 1 < s.dhcp.renewAt.toNat)
    (hrebind : s.dhcp.state = .renewing → 1 < s.dhcp.rebindAt.toNat) : dhTickBound s = (dhCountDown s, .ok) := by
  have hnorenew : ¬ (s.dhcp.state = .bound ∧ down s.dhcp.renewAt = 0#32) :=
    fun ⟨hs, hzero⟩ => down_ne_zero (hrenew hs) hzero
  have hnorebind : ¬ (s.dhcp.state = .renewing ∧ down s.dhcp.rebindAt = 0#32) :=
    fun ⟨hs, hzero⟩ => down_ne_zero (hrebind hs) hzero
  exact (if_neg (down_ne_zero hlease)).trans ((if_neg hnorenew).trans (if_neg hnorebind))

end Bound

/-- A send after a write of the DHCP registers. -/
theorem ended_dhSend_setDhcp {s : State} {d : Dhcp} {k : DhMessage} {f : List Byte}
    (hf : dhMessageFrame (s.setDhcp d) k = some f) :
    ended (dhSend (s.setDhcp d) k) = ({ s.afterSend f with dhcp := d } : State).withStatus (s.sendCode 0#8) := by
  rw [dhSend_of_frame hf]
  simp only [ended, code_sendStatus]
  rfl

/-- Settles O36: one clause for each outcome of the tests, in their order. -/
theorem dhTickInBoundStates : Obligations.DhTickInBoundStates := by
  intro s ha hbound d u body
  have hframe : ∀ (st : DhState) (k : DhMessage),
      dhMessageFrame (s.setDhcp { d with state := st }) k = dhMessageFrame s k :=
    fun st => dhMessageFrame_setDhcp rfl rfl rfl
  rw [exec_dhTick_attached ha, dhTick_of_isBound hbound]
  refine ⟨fun hexpired => ?expires, fun hlease hs hrenew => ⟨fun hmiss => ?unresolved, fun m hhit => ?renews⟩,
    fun hlease hs hrebind => ?rebinds, fun hlease hrenew hrebind => ?counts⟩
  case expires =>
    rw [dhTickBound_expires hexpired]
    rfl
  case unresolved =>
    have hnone : dhMessageFrame s .requestRenewing = none := by simp only [dhMessageFrame, hmiss, Option.map_none]
    have hsend := dhSend_of_no_frame ((hframe .renewing _).trans hnone)
    rw [dhTickBound_renews hlease hs hrenew]
    exact congrArg (Host.Outcome.next ∘ ended) hsend
  case renews =>
    have hsome : dhMessageFrame s .requestRenewing = some (dhFrame s m s.ident.ownIp s.dhcp.dhcpServer body) := by
      simp only [dhMessageFrame, hhit]
      rfl
    rw [dhTickBound_renews hlease hs hrenew]
    exact congrArg Host.Outcome.next (ended_dhSend_setDhcp ((hframe .renewing _).trans hsome))
  case rebinds =>
    rw [dhTickBound_rebinds hlease hs hrebind]
    exact congrArg Host.Outcome.next (ended_dhSend_setDhcp (hframe .rebinding .requestRebinding))
  case counts =>
    rw [dhTickBound_counts hlease hrenew hrebind]
    rfl

/-! ### The dispatch of a received datagram -/

/-- Settles O38: in every state the tests for the listed types fail, and what is left is no change. -/
theorem dhRxIgnoresUnlistedPairs : Obligations.DhRxIgnoresUnlistedPairs := by
  intro s r ha hl hv hoffer hreply hack
  have hdispatch : dhDispatch s r = (s, .ok) := by
    simp only [dhDispatch]
    cases hs : s.dhcp.state with
    | selecting => exact if_neg fun htype => hoffer ⟨hs, htype⟩
    | requesting =>
      exact (if_neg fun htype => hreply ⟨hs, .inl htype⟩).trans (if_neg fun htype => hreply ⟨hs, .inr htype⟩)
    | renewing => exact if_neg fun htype => hack ⟨.inl hs, htype⟩
    | rebinding => exact if_neg fun htype => hack ⟨.inr hs, htype⟩
    | off | bound | backingOff | unused7 => rfl
  rw [exec_dhRx_validated ha hl hv, hdispatch]
  rfl

/-- An ACK for the requested address with a lease time passes its two tests (44_dhcp.md R240). -/
theorem dhAckWith_accepted {s : State} {r : DhReply} {lease : BitVec 32} (haddr : r.yiaddr = s.dhcp.address)
    (hlease : optWord r.opts 51#8 = some lease) (k : BitVec 32 → State × Status) : dhAckWith s r k = k lease := by
  simp only [dhAckWith, hlease]
  exact if_pos haddr

/-- Settles O39: the transition is one send of the REQUEST on the adopted registers, then the backoff is armed. -/
theorem dhRxOfferSendsRequest : Obligations.DhRxOfferSendsRequest := by
  intro s r ha hl hv hs htype haddr server f
  have hdispatch : dhDispatch s r = dhOffer s r := by
    simp only [dhDispatch, hs]
    exact (if_pos htype).trans (if_pos haddr)
  have hframe : dhMessageFrame (s.setDhcp { s.dhcp with
      address := r.yiaddr, dhcpServer := server, state := .requesting }) .requestSelecting = some f :=
    congrArg some (dhFrame_congr rfl rfl _ _ _ _)
  rw [exec_dhRx_validated ha hl hv, hdispatch]
  simp only [dhOffer, ended]
  rw [dhSend_of_frame hframe]
  simp only [code_sendStatus]
  rfl

/-- Settles O40: the transition is the commit. -/
theorem dhRxAckCommitsBinding : Obligations.DhRxAckCommitsBinding := by
  intro s r lease ha hl hv hs htype haddr hlease u
  have hdispatch : dhDispatch s r = dhCommit s r lease := by
    simp only [dhDispatch, hs]
    exact (if_pos htype).trans (dhAckWith_accepted haddr hlease _)
  rw [exec_dhRx_validated ha hl hv, hdispatch, dhCommit_eq]
  simp only [ended, code_sendStatus]
  rfl

/-- Settles O41: the transition is the clear. -/
theorem dhRxNakReturnsToOff : Obligations.DhRxNakReturnsToOff := by
  intro s r ha hl hv hs htype
  have hnoack : r.msgType ≠ dhcpAck := by rw [htype]; decide
  have hdispatch : dhDispatch s r = (s.dhcpCleared, .ok) := by
    simp only [dhDispatch, hs]
    exact (if_neg hnoack).trans (if_pos htype)
  rw [exec_dhRx_validated ha hl hv, hdispatch]
  rfl

/-- Settles O42: both states take the same transition, the refresh. -/
theorem dhRxAckRefreshesTimers : Obligations.DhRxAckRefreshesTimers := by
  intro s r lease ha hl hv hstate htype haddr hlease
  have hdispatch : dhDispatch s r = dhAckRenew s r lease := by
    rcases hstate with hs | hs
    all_goals
      simp only [dhDispatch, hs]
      exact (if_pos htype).trans (dhAckWith_accepted haddr hlease _)
  rw [exec_dhRx_validated ha hl hv, hdispatch]
  rfl

/-! ### The release -/

/-- From a bound state the release is a send and the clear (44_dhcp.md R262). -/
theorem dhReleaseBody_of_isBound {s : State} (h : s.dhcp.state.isBound = true) :
    dhReleaseBody s = (dhClear (dhSend s .release).1, (dhSend s .release).2) := by
  rcases (DhState.isBound_iff _).1 h with hs | hs | hs <;> simp only [dhReleaseBody, hs]

/-- Settles O43: the release by the state it starts from. -/
theorem dhRelReleasesAndStops : Obligations.DhRelReleasesAndStops := by
  intro s ha
  rw [exec_dhRel_attached ha]
  simp only [dhRelease]
  refine ⟨fun hidle => ?idle, fun hexchange => ?exchange, fun hbound hmiss => ?unresolved, fun m hbound hhit => ?sends⟩
  case idle =>
    have hbody : dhReleaseBody s = (s, .ok) := by rcases hidle with hs | hs | hs <;> simp only [dhReleaseBody, hs]
    rw [hbody]
    rfl
  case exchange =>
    have hbody : dhReleaseBody s = (dhClear s, .ok) := by
      rcases hexchange with hs | hs <;> simp only [dhReleaseBody, hs]
    rw [hbody]
    rfl
  case unresolved =>
    have hnone : dhMessageFrame s .release = none := by simp only [dhMessageFrame, hmiss, Option.map_none]
    rw [dhReleaseBody_of_isBound hbound, dhSend_of_no_frame hnone]
    rfl
  case sends =>
    have hsome : dhMessageFrame s .release = some (dhFrame s m s.ident.ownIp s.dhcp.dhcpServer
        (dhMessage s s.ident.ownIp (dhOptions s.dhcp .release))) := by
      simp only [dhMessageFrame, hhit, Option.map_some]
    rw [dhReleaseBody_of_isBound hbound, dhSend_of_frame hsome]
    simp only [ended, code_sendStatus]
    rfl

/-! ### Reading the options of a frame -/

/-- One well-formed item is taken (30_encoding.md R100). -/
theorem optsParse_item {code len : Byte} {data : List Byte} (n : Nat) (rest : List Byte) (hpad : code ≠ 0#8)
    (hend : code ≠ 255#8) (hlen : len.toNat = data.length) (hok : optionLengthOk code data.length = true) :
    optsParse (n + 1) (code :: len :: (data ++ rest)) = (optsParse n rest).map ((code, data) :: ·) := by
  simp only [optsParse]
  rw [if_neg hpad, if_neg hend, if_pos ⟨by simp [hlen], hlen ▸ hok⟩, hlen, List.drop_left, List.take_left]

/-- The options of a REQUEST sent in `Selecting` parse back, whatever follows their end marker. -/
theorem optsParse_requestSelecting (d : Dhcp) (n : Nat) (rest : List Byte) :
    optsParse (n + 5) (dhOptions d .requestSelecting ++ 255#8 :: rest)
      = some [(53#8, [3#8]), (50#8, bytes32 d.address), (54#8, bytes32 d.dhcpServer), (55#8, [1#8, 3#8])] := by
  have hparams := optsParse_item (code := 55#8) (len := 2#8) (data := [1#8, 3#8]) (n + 1) (255#8 :: rest)
    (by decide) (by decide) rfl rfl
  have hserver := optsParse_item (code := 54#8) (len := 4#8) (data := bytes32 d.dhcpServer) (n + 2) _
    (by decide) (by decide) rfl rfl |>.trans (congrArg _ hparams)
  have haddr := optsParse_item (code := 50#8) (len := 4#8) (data := bytes32 d.address) (n + 3) _
    (by decide) (by decide) rfl rfl |>.trans (congrArg _ hserver)
  have htype := optsParse_item (code := 53#8) (len := 1#8) (data := [3#8]) (n + 4) _
    (by decide) (by decide) rfl rfl |>.trans (congrArg _ haddr)
  exact htype

/-- The UDP payload is the message: the checksum is put into the header. -/
theorem dhDatagram_drop_header (p : Params) (src dst : IpAddr) (m : List Byte) :
    (dhDatagram p src dst m).drop 8 = m := by
  simp only [dhDatagram, put16]
  rw [List.drop_set_of_lt (by omega), List.drop_set_of_lt (by omega)]
  rfl

/-- After the Ethernet, IP and UDP headers of a DHCP frame comes the message, then padding. -/
theorem dhFrame_drop_headers (s : State) (dmac : MacAddr) (src dst : IpAddr) (m : List Byte) :
    ∃ n, (dhFrame s dmac src dst m).drop 42 = m ++ zeros n := by
  let u := dhDatagram s.params src dst m
  let header := bytes48 dmac ++ bytes48 s.ident.ownMac ++ bytes16 etherTypeIp ++ dhIpHeader s.params src dst u.length
  have hheader : header.length = 34 := by simp [header]
  have hu : 8 ≤ u.length := by simp [u]
  obtain ⟨n, hframe⟩ : ∃ n, dhFrame s dmac src dst m = header ++ (u ++ zeros n) :=
    ⟨_, by simp only [dhFrame, ethFrame, header, u, List.append_assoc]; rfl⟩
  refine ⟨n, ?_⟩
  calc (dhFrame s dmac src dst m).drop 42
      = ((header ++ (u ++ zeros n)).drop 34).drop 8 := by rw [hframe, List.drop_drop]
    _ = (u ++ zeros n).drop 8 := by rw [List.drop_left' hheader]
    _ = m ++ zeros n := by rw [List.drop_append_of_le_length hu, dhDatagram_drop_header]

/-- After the fixed fields and the cookie of a message come the options, the end marker and padding. -/
theorem dhMessage_drop_fields (s : State) (c : IpAddr) (o : List Byte) :
    ∃ n, (dhMessage s c o).drop 240 = o ++ 255#8 :: zeros n := by
  let fields := [bootRequest, 1#8, 6#8, 0#8] ++ bytes32 s.dhcp.transactionId ++ bytes16 0#16 ++ bytes16 0#16
    ++ bytes32 c ++ zeros 12 ++ bytes48 s.ident.ownMac ++ zeros 10 ++ zeros 64 ++ zeros 128 ++ dhcpCookie
  have hfields : fields.length = 240 := by simp [fields, dhcpCookie]
  obtain ⟨n, hmessage⟩ : ∃ n, dhMessage s c o = fields ++ (o ++ 255#8 :: zeros n) :=
    ⟨_, by simp only [dhMessage, fields, List.append_assoc]; rfl⟩
  exact ⟨n, by rw [hmessage, List.drop_left' hfields]⟩

/-- The option area of a DHCP frame: the options, the end marker, padding (30_encoding.md R100). -/
theorem dhFrame_drop_options (s : State) (dmac : MacAddr) (src dst c : IpAddr) (o : List Byte) :
    ∃ rest, (dhFrame s dmac src dst (dhMessage s c o)).drop 282 = o ++ 255#8 :: rest := by
  obtain ⟨n, hframe⟩ := dhFrame_drop_headers s dmac src dst (dhMessage s c o)
  obtain ⟨k, hmessage⟩ := dhMessage_drop_fields s c o
  refine ⟨zeros k ++ zeros n, ?_⟩
  have hlen : 240 ≤ (dhMessage s c o).length := by rw [length_dhMessage]; omega
  calc (dhFrame s dmac src dst (dhMessage s c o)).drop 282
      = ((dhFrame s dmac src dst (dhMessage s c o)).drop 42).drop 240 := by rw [List.drop_drop]
    _ = o ++ 255#8 :: (zeros k ++ zeros n) := by
      rw [hframe, List.drop_append_of_le_length hlen, hmessage, List.append_assoc, List.cons_append]

/-- The server identifier of a REQUEST reads back from its frame (44_dhcp.md R233, R266). -/
theorem requestSelecting_names_server (s : State) (d : Dhcp) (dmac : MacAddr) (src dst c : IpAddr) :
    let f := dhFrame s dmac src dst (dhMessage s c (dhOptions d .requestSelecting))
    ∃ o, optsParse f.length (f.drop 282) = some o ∧ optWord o 54#8 = some d.dhcpServer := by
  intro f
  obtain ⟨rest, hdrop⟩ := dhFrame_drop_options s dmac src dst c (dhOptions d .requestSelecting)
  obtain ⟨n, hfuel⟩ : ∃ n, f.length = n + 5 := ⟨f.length - 5, by simp only [f, length_dhFrame, length_dhMessage]; omega⟩
  refine ⟨_, by rw [hfuel, hdrop, optsParse_requestSelecting], ?_⟩
  have hread : be32 (bytes32 d.dhcpServer) 0 = d.dhcpServer := by simpa using be32_bytes32 d.dhcpServer []
  exact congrArg some hread

/-! ### From `Off` to `Requesting`, and back -/

/-- The tick in `Off` with an address wanted: `Selecting`, still attached, the parameters kept (44_dhcp.md R250). -/
theorem dhTick_starts {s : State} (hs : s.dhcp.state = .off) (hwant : s.ctrl.dhcpWant = true) :
    (dhTick s).1.dhcp.state = .selecting ∧ (dhTick s).1.ctrl = s.ctrl ∧ (dhTick s).1.params = s.params := by
  have hstart : dhTick s = dhStart s := by
    simp only [dhTick, hs]
    exact if_pos hwant
  obtain ⟨hframe, -, -⟩ := dhTick_frame s
  refine ⟨?_, by rw [hframe], by rw [hframe]⟩
  obtain ⟨-, -, hdhcp, -, -⟩ := dhSend_frame
    (s.setDhcp { s.dhcp with transactionId := s.port.xidIn, state := .selecting }) .discover
  rw [hstart]
  exact congrArg Dhcp.state hdhcp

/-- Settles O45: (a) is the start (R250) and then O39, whose frame is read back; (b) is O41. -/
theorem offerLeadsToRequestingNakToOff : Obligations.OfferLeadsToRequestingNakToOff := by
  refine ⟨fun s ha hs hwant => ?offer, fun s r ha hl hv hs htype => ?nak⟩
  case offer =>
    obtain ⟨hselecting, hctrl, hparams⟩ := dhTick_starts hs hwant
    refine ⟨ended (dhTick s), exec_dhTick_attached ha, hselecting, fun p m l r => ?_⟩
    intro s2 hl hv htype haddr
    have hattached : s2.ctrl.attached = true := (congrArg Ctrl.attached hctrl).trans ha
    have hcap : s2.port.lenA.toNat ≤ s2.params.bufCap := hl.trans_eq (congrArg Params.bufCap hparams.symm)
    have hsends := dhRxOfferSendsRequest s2 r hattached hcap hv hselecting htype haddr
    obtain ⟨o, hparse, hserver⟩ := requestSelecting_names_server s2
      { s2.dhcp with address := r.yiaddr, dhcpServer := (optWord r.opts 54#8).getD r.ipSrc } macBcast 0#32 ipBcast 0#32
    exact ⟨_, _, o, hsends, rfl, rfl, hparse, hserver⟩
  case nak => exact ⟨_, dhRxNakReturnsToOff s r ha hl hv hs htype, rfl, rfl, rfl, rfl, rfl, rfl, rfl⟩

end Sys2Proof.Machine

/-!
The protocol bridge (spec/45_bridge.md R292, R293, R295 to R297, R305, R306). A received frame meets its tests one after
another, so `RX` is one equation per test. The register commands go through `Csr.number`, the inverse of
`Csr.ofNumber`: what holds of a register number is read off the register it belongs to.
-/

namespace Sys2Proof.Machine

/-! ### Life cycle -/

theorem exec_attach_attached {s : State} (ha : s.ctrl.attached = true) :
    exec .attach s = .next (s.withStatus 6#8) :=
  if_pos ha

theorem exec_attach_detached {s : State} (ha : s.ctrl.attached = false) :
    exec .attach s = .next (((attachState s).emit (.setFilter s.ident.ownMac [])).withStatus 0#8) :=
  if_neg (Bool.eq_false_iff.1 ha)

/-- Settles O48: attached the command is refused, detached it leaves `attachState`. -/
theorem attachRebuildsFromZero : Obligations.AttachRebuildsFromZero :=
  fun _ => ⟨exec_attach_attached, exec_attach_detached⟩

theorem exec_detach_attached {s : State} (ha : s.ctrl.attached = true) :
    exec .detach s = .next (ended ({ (dhRelease s).1.clearTables with
      dhcp := Dhcp.zero, ctrl := { (dhRelease s).1.ctrl with attached := false } }, (dhRelease s).2)) :=
  whenAttached_attached ha

theorem dhRelease_params (s : State) : (dhRelease s).1.params = s.params := by
  obtain ⟨hframe, -⟩ := dhRelease_frame s
  rw [hframe]

/-- Settles O49: the release keeps the parameters, so the tables it leaves to be rebuilt have the sizes they had before; it
has already taken back the wish for an address. -/
theorem detachReleasesThenClears : Obligations.DetachReleasesThenClears := by
  intro s
  refine ⟨whenAttached_detached, fun ha => ⟨ended (dhRelease s), exec_dhRel_attached ha, ?_⟩⟩
  rw [exec_detach_attached ha, ← dhRelease_params s]
  rfl

/-! ### The length of an inbound packet -/

theorem length_of_xlInTcp {s : State} {t : TcpHeader} {hdr seg q : List Byte}
    (hq : (xlInTcp s t hdr seg).2.2 = some q) : q.length = hdr.length + seg.length := by
  simp only [xlInTcp] at hq
  split at hq
  case h_1 => cases hq; simp
  case h_2 => split at hq <;> (cases hq; simp)

/-- If the TCP part keeps the length of a packet, so does the rewrite. -/
theorem length_of_readdress {s : State} {h : IpHeader} {pkt q : List Byte} {off : Nat} {old new : IpAddr}
    {tcp : TcpHeader → List Byte → List Byte → XlResult}
    (htcp : ∀ {t hdr seg q}, (tcp t hdr seg).2.2 = some q → q.length = hdr.length + seg.length)
    (hq : (readdress s h pkt off old new tcp).2.2 = some q) : q.length = pkt.length := by
  have hparts : (pkt.take h.hl).length + (pkt.drop h.hl).length = pkt.length := by
    rw [← List.length_append, List.take_append_drop]
  rw [← hparts]
  simp only [readdress] at hq
  split at hq
  case isTrue => cases hq; simp
  case isFalse =>
    split at hq
    case isTrue => split at hq <;> (cases hq; simp)
    case isFalse =>
      split at hq
      case isFalse => cases hq; simp
      case isTrue =>
        split at hq
        case h_1 => cases hq; simp
        case h_2 => rw [htcp hq, length_rewriteIpHeader, length_adjustTcp]

/-- An inbound packet is as long as its total length, rewritten or not (43_translator.md R190, R210). -/
theorem length_of_xlIn {s : State} {b q : List Byte} {h : IpHeader} (hd : ipDecode b = some h)
    (hq : (xlIn s b).2.2 = some q) : q.length = h.tl := by
  by_cases hpass : s.ident.xlActive = false ∨ h.dst ≠ s.ident.ownIp
  · rw [xlIn_of_passes hd hpass] at hq
    cases hq
    exact length_take_totalLength hd
  · obtain ⟨hact, hdst⟩ : s.ident.xlActive = true ∧ h.dst = s.ident.ownIp := by simpa using hpass
    rw [xlIn_of_translates hd hact hdst] at hq
    rw [length_of_readdress length_of_xlInTcp hq, length_take_totalLength hd]

/-! ### The tests of a received frame, in their order -/

theorem isDhcpFrame_iff (s : State) (f : List Byte) (h : IpHeader) (seg : List Byte) :
    isDhcpFrame s f h seg = true
      ↔ (be48 f 0 = 0xFFFFFFFFFFFF#48 ∨ be48 f 0 = s.ident.ownMac) ∧ h.proto = 17#8 ∧ h.fragOff = 0#13 ∧ h.mf = false
        ∧ 8 ≤ seg.length ∧ be16 seg 0 = s.params.dhcpServerPort ∧ be16 seg 2 = s.params.dhcpClientPort := by
  rw [isDhcpFrame, udpDecode_eq]
  by_cases hlen : 8 ≤ seg.length <;> simp [hlen, macBcast, protoUdp, and_assoc]

theorem isForHost_iff (s : State) (h : IpHeader) :
    isForHost s h = true ↔ (s.ident.ownIp ≠ 0#32 ∧ h.dst = s.ident.ownIp) ∨ h.dst = 0xFFFFFFFF#32 := by
  simp [isForHost, ipBcast]

section Classification

variable {s : State} {f : List Byte} {h : IpHeader}

theorem bridgeRx_of_unsized (hsize : ¬ (14 ≤ f.length ∧ f.length ≤ s.params.ethMaxPacket)) :
    bridgeRx s f = rxDiscard s :=
  if_pos (by omega)

/-- A frame within the length bounds is dispatched on its Ethertype. -/
theorem bridgeRx_of_sized (hsize : 14 ≤ f.length ∧ f.length ≤ s.params.ethMaxPacket) :
    bridgeRx s f = if be16 f 12 = 0x0806#16 then arpHandleFrame s f
      else if be16 f 12 = 0x0800#16 then bridgeRxIp s f else rxDiscard s :=
  if_neg (by omega)

theorem bridgeRx_of_arp (hsize : 14 ≤ f.length ∧ f.length ≤ s.params.ethMaxPacket) (htype : be16 f 12 = 0x0806#16) :
    bridgeRx s f = arpHandleFrame s f := by
  rw [bridgeRx_of_sized hsize, if_pos htype]

theorem bridgeRx_of_ip (hsize : 14 ≤ f.length ∧ f.length ≤ s.params.ethMaxPacket) (htype : be16 f 12 = 0x0800#16) :
    bridgeRx s f = bridgeRxIp s f := by
  have hnoarp : be16 f 12 ≠ 0x0806#16 := by rw [htype]; decide
  rw [bridgeRx_of_sized hsize, if_neg hnoarp, if_pos htype]

theorem bridgeRxIp_of_undecodable (hd : ipDecode (f.drop 14) = none) : bridgeRxIp s f = rxDiscard s := by
  simp only [bridgeRxIp, hd]

/-- A packet that decodes is DHCP, or for the host, or foreign. -/
theorem bridgeRxIp_of_decoded (hd : ipDecode (f.drop 14) = some h) :
    bridgeRxIp s f = if isDhcpFrame s f h (((f.drop 14).take h.tl).drop h.hl) then dhReceive s f
      else if isForHost s h then deliverIn s ((f.drop 14).take h.tl) else rxDiscard s := by
  simp only [bridgeRxIp, hd]

end Classification

/-- A packet for the host is delivered as the inbound translation answers it, at its total length. -/
theorem deliverIn_of_decoded (s : State) {b : List Byte} {h : IpHeader} (hd : ipDecode b = some h) :
    ∃ u q, xlIn s b = (u, .ok, some q) ∧ q.length = h.tl ∧ deliverIn s b = (u.emit (.hostDeliver q), .ok) := by
  obtain ⟨u, q, hx⟩ := xlIn_packet (s := s) hd
  have hlen : q.length = h.tl := length_of_xlIn hd (congrArg (·.2.2) hx)
  exact ⟨u, q, hx, hlen, by simp only [deliverIn, hx]⟩

/-- Settles O51: each class of frames is one path through the tests of `bridgeRx`. -/
theorem rxClassifiesFrames : Obligations.RxClassifiesFrames := by
  intro s ha hl f p sized dropped dhcp ours
  obtain ⟨hrx, -, harp, -, hdh⟩ := exec_attached_bufA ha hl
  have hdiscard : bridgeRx s f = rxDiscard s → exec .rx s = .next (dropped.withStatus 4#8) := fun h => by
    rw [hrx, h]
    rfl
  have hdhcp : ∀ h, isDhcpFrame s f h ((p.take h.tl).drop h.hl) = true ↔ dhcp h := fun h => isDhcpFrame_iff s f h _
  have hours : ∀ h, isForHost s h = true ↔ ours h := isForHost_iff s
  refine ⟨fun hsize => ?unsized, fun hsize htype => ?arp, fun hsize hnoarp hbad => ?unreadable,
    fun h hsize htype hd hyes => ?dhcp, fun h hsize htype hd hno hfor => ?delivered,
    fun h hsize htype hd hno hfor => ?foreign⟩
  case unsized => exact hdiscard (bridgeRx_of_unsized hsize)
  case arp => rw [hrx, harp, bridgeRx_of_arp hsize htype]
  case unreadable =>
    refine hdiscard ?_
    by_cases htype : be16 f 12 = 0x0800#16
    · have hnone : ipDecode p = none := hbad.resolve_left (not_not_intro htype)
      rw [bridgeRx_of_ip hsize htype, bridgeRxIp_of_undecodable hnone]
    · rw [bridgeRx_of_sized hsize, if_neg hnoarp, if_neg htype]
  case dhcp =>
    rw [hrx, hdh, bridgeRx_of_ip hsize htype, bridgeRxIp_of_decoded hd, if_pos ((hdhcp h).2 hyes)]
  case delivered =>
    obtain ⟨u, q, hx, hlen, hdeliver⟩ := deliverIn_of_decoded s (ipDecode_take hd)
    refine ⟨u, .ok, q, hx, hlen, ?_⟩
    rw [hrx, bridgeRx_of_ip hsize htype, bridgeRxIp_of_decoded hd, if_neg (mt (hdhcp h).1 hno),
      if_pos ((hours h).2 hfor), hdeliver]
    rfl
  case foreign =>
    refine hdiscard ?_
    rw [bridgeRx_of_ip hsize htype, bridgeRxIp_of_decoded hd, if_neg (mt (hdhcp h).1 hno),
      if_neg (mt (hours h).1 hfor)]

/-! ### Register numbers -/

/-- The number that names a register (45_bridge.md R305, R306). -/
def Csr.number : Csr → BitVec 8
  | .ownMac => 0x00#8
  | .ownIp => 0x01#8
  | .ownMask => 0x02#8
  | .gatewayIp => 0x03#8
  | .externalHostIp => 0x04#8
  | .ctrl => 0x05#8
  | .dhState => 0x10#8
  | .dhTransactionId => 0x11#8
  | .dhLeaseSeconds => 0x12#8
  | .dhRenewAt => 0x13#8
  | .dhRebindAt => 0x14#8
  | .dhRetryWait => 0x15#8
  | .dhRetryBackoff => 0x16#8
  | .dhAddress => 0x17#8
  | .dhMask => 0x18#8
  | .dhGateway => 0x19#8
  | .dhDhcpServer => 0x1A#8
  | .statRqFull => 0x20#8
  | .statRqExpired => 0x21#8
  | .statTxFail => 0x22#8
  | .statRxDiscard => 0x23#8
  | .statDhcpDiscard => 0x24#8
  | .statPmapFull => 0x25#8
  | .statNoRoute => 0x26#8
  | .statArpNospace => 0x27#8
  | .statTxDiscard => 0x28#8
  | .rfnmCount => 0x29#8

theorem Csr.ofNumber_eq_some_iff (n : BitVec 8) (r : Csr) : Csr.ofNumber n = some r ↔ n = r.number := by
  constructor
  · intro h
    simp only [Csr.ofNumber] at h
    split at h
    case h_28 => cases h
    all_goals
      cases h
      exact BitVec.eq_of_toNat_eq ‹_›
  · rintro rfl
    cases r <;> rfl

/-- The registers in the order of their numbers. -/
def Csr.all : List Csr :=
  [.ownMac, .ownIp, .ownMask, .gatewayIp, .externalHostIp, .ctrl, .dhState, .dhTransactionId, .dhLeaseSeconds, .dhRenewAt,
    .dhRebindAt, .dhRetryWait, .dhRetryBackoff, .dhAddress, .dhMask, .dhGateway, .dhDhcpServer, .statRqFull,
    .statRqExpired, .statTxFail, .statRxDiscard, .statDhcpDiscard, .statPmapFull, .statNoRoute, .statArpNospace,
    .statTxDiscard, .rfnmCount]

theorem Csr.mem_all (r : Csr) : r ∈ Csr.all := by
  cases r <;> decide

/-! ### Writing a register -/

section Write

variable {s : State} {r : Csr}

theorem exec_csrWr_of_register (hn : s.port.opReg = r.number) :
    exec .csrWr s = .next (ended (s.writeCsr s.port.opVal r)) := by
  simp only [exec, execCsrWr, (Csr.ofNumber_eq_some_iff _ _).2 hn]
  rfl

theorem exec_csrWr_of_no_register (hn : Csr.ofNumber s.port.opReg = none) :
    exec .csrWr s = .next (s.withStatus 7#8) := by
  simp only [exec, execCsrWr, hn]
  rfl

theorem State.writeDetached_attached (ha : s.ctrl.attached = true) (i : Identity) :
    s.writeDetached i = (s, .attached) :=
  if_pos ha

theorem State.writeDetached_detached (ha : s.ctrl.attached = false) (i : Identity) :
    s.writeDetached i = ({ s with ident := i }, .ok) :=
  if_neg (Bool.eq_false_iff.1 ha)

/-- Above `CTRL` no register but `rfnm_count` is written (45_bridge.md R305). -/
theorem State.writeCsr_of_readOnly (s : State) (v : BitVec 48) (hn : 5 < r.number.toNat) (hr : r ≠ .rfnmCount) :
    s.writeCsr v r = (s, .illegalCmd) := by
  cases r with
  | ownMac | ownIp | ownMask | gatewayIp | externalHostIp | ctrl => exact absurd hn (by decide)
  | rfnmCount => exact absurd rfl hr
  | _ => rfl

end Write

/-- Settles O54: a number of the table is written as its register is, any other is refused. -/
theorem csrWrTable : Obligations.CsrWrTable := by
  intro s n v
  have hwrite : ∀ r : Csr, n = r.number → exec .csrWr s = .next (ended (s.writeCsr v r)) :=
    fun _ => exec_csrWr_of_register
  refine ⟨fun ha hn => ?immutable, fun ha hn => ?ownMac, fun ha hn => ?ownIp, fun ha hn => ?ownMask,
    hwrite .gatewayIp, hwrite .externalHostIp, hwrite .ctrl, hwrite .rfnmCount, fun hlow hne => ?refused⟩
  case immutable =>
    rcases hn with hn | hn | hn
    · rw [hwrite .ownMac hn, State.writeCsr, State.writeDetached_attached ha]
      rfl
    · rw [hwrite .ownIp hn, State.writeCsr, State.writeDetached_attached ha]
      rfl
    · rw [hwrite .ownMask hn, State.writeCsr, State.writeDetached_attached ha]
      rfl
  case ownMac =>
    rw [hwrite .ownMac hn, State.writeCsr, State.writeDetached_detached ha]
    rfl
  case ownIp =>
    rw [hwrite .ownIp hn, State.writeCsr, State.writeDetached_detached ha]
    rfl
  case ownMask =>
    rw [hwrite .ownMask hn, State.writeCsr, State.writeDetached_detached ha]
    rfl
  case refused =>
    cases hr : Csr.ofNumber n with
    | none => exact exec_csrWr_of_no_register hr
    | some r =>
      have hn : n = r.number := (Csr.ofNumber_eq_some_iff n r).1 hr
      have hnotRfnm : r ≠ .rfnmCount := fun h => hne (hn.trans (congrArg Csr.number h))
      rw [hwrite r hn, State.writeCsr_of_readOnly s v (hn ▸ hlow) hnotRfnm]
      rfl

/-! ### Reading a register -/

theorem exec_csrRd_of_register {s : State} {r : Csr} (hn : s.port.opReg = r.number) :
    exec .csrRd s = .next { s with port := { s.port with resVal := s.readCsr r, status := 0#8 } } := by
  simp only [exec, execCsrRd, (Csr.ofNumber_eq_some_iff _ _).2 hn]
  rfl

theorem exec_csrRd_of_no_register {s : State} (hn : Csr.ofNumber s.port.opReg = none) :
    exec .csrRd s = .next (s.withStatus 7#8) := by
  simp only [exec, execCsrRd, hn]
  rfl

theorem Ctrl.setWidth_read (c : Ctrl) :
    c.read.setWidth 48 = (if c.dhcpWant then 2#48 else 0#48) + (if c.attached then 1#48 else 0#48) := by
  obtain ⟨attached, dhcpWant⟩ := c
  cases attached <;> cases dhcpWant <;> decide

/-- The read table is every register's value under its number (45_bridge.md R306). -/
theorem specCsrValues_eq (s : State) : specCsrValues s = Csr.all.map fun r => (r.number, s.readCsr r) := by
  simp only [specCsrValues, Csr.all, List.map_cons, List.map_nil, Csr.number, State.readCsr, Ctrl.setWidth_read]
  cases s.dhcp.state <;> rfl

/-- Settles O55: the table lists every register, so a number is in it or names none. -/
theorem csrRdTable : Obligations.CsrRdTable := by
  intro s
  rw [specCsrValues_eq]
  refine ⟨fun p hp hn => ?listed, fun hno => ?unlisted⟩
  case listed =>
    obtain ⟨r, -, rfl⟩ := List.mem_map.1 hp
    exact exec_csrRd_of_register hn
  case unlisted =>
    cases hr : Csr.ofNumber s.port.opReg with
    | none => exact exec_csrRd_of_no_register hr
    | some r =>
      exact absurd ((Csr.ofNumber_eq_some_iff _ r).1 hr) (hno _ (List.mem_map_of_mem (Csr.mem_all r)))

end Sys2Proof.Machine

/-!
The command port, reset, the buffers and the gating (spec/30_encoding.md R80, R81, R84; 10_state.md R45 to R48;
40_checksum.md R125, R126; 70_reset_and_hazards.md R350).
-/

namespace Sys2Proof.Machine

/-! ### Encoding and stepping -/

/-- Settles O1: a command is one byte, and a byte that decodes is the opcode of its command. -/
theorem encodeDecodeAgree : Obligations.EncodeDecodeAgree := by
  refine ⟨fun i => ?encoded, fun bs i hd => ?unique, rfl, rfl, rfl, rfl, rfl, rfl, rfl⟩
  case encoded => cases i <;> rfl
  case unique =>
    match bs with
    | [w] => rw [encode, ← eq_encodeOpcode_of_decodeOpcode hd]
    | [] | _ :: _ :: _ => cases hd

/-- Settles O3: of the two things a step with a pending command can do, the byte that decodes leaves the run. -/
theorem stepRunsDecodedCommand : Obligations.StepRunsDecodedCommand := by
  intro s i hpending hdecode
  rcases step_pending hpending with ⟨j, hj, hstep⟩ | ⟨hnone, -⟩
  · obtain rfl : j = i := Except.ok.inj (hj.symm.trans hdecode)
    exact hstep
  · exact absurd hdecode (hnone i)

/-- Settles O4: an idle step is one action of the environment, and a write of a buffer is tested for its end. -/
theorem idleStepTakesEnvironmentAction : Obligations.IdleStepTakesEnvironmentAction := by
  refine ⟨fun s hidle hwait => ?waits, fun s x rest hidle henv => ?acts⟩
  case waits => rw [step_idle hidle, envStep, hwait]
  case acts =>
    have hstep : step s = envAct { s with env := rest } x := by rw [step_idle hidle, envStep, henv]
    cases x with
    | bufA a bs => exact ⟨fun h => hstep.trans (if_pos h), fun h => hstep.trans (if_neg (Nat.not_le.2 h))⟩
    | bufB a bs => exact ⟨fun h => hstep.trans (if_pos h), fun h => hstep.trans (if_neg (Nat.not_le.2 h))⟩
    | _ => exact hstep

/-! ### Reset -/

/-- Settles O6: each register is read off the reset state; in tables of cleared entries no entry is in use. -/
theorem powerOnIsZeroAndMeetsInvariants : Obligations.PowerOnIsZeroAndMeetsInvariants := by
  refine ⟨rfl, rfl, rfl, rfl, rfl, rfl, rfl, rfl, fun _ => ⟨rfl, rfl, rfl⟩, rfl, ?shape, ?arp, ?retry, ?ports, ?dhcp⟩
  case shape =>
    refine ⟨List.length_replicate, List.length_replicate, List.length_replicate, ?_⟩
    simp [State.reset, Memory.wf]
  case arp =>
    intro i j e f he _ hip
    exact absurd (congrArg ArpEntry.ip (List.eq_of_mem_replicate (List.mem_of_getElem? he))) hip
  case retry =>
    intro e he
    rw [List.eq_of_mem_replicate he, RqSlotOk, if_neg (by decide)]
  case ports =>
    intro i j e f he _ hfree
    rw [List.eq_of_mem_replicate (List.mem_of_getElem? he)] at hfree
    exact absurd ⟨rfl, rfl⟩ hfree
  case dhcp => exact ⟨by decide, by decide, fun _ => rfl, by decide, by decide⟩

/-! ### Buffers -/

/-- Settles O7: byte by byte; a byte beyond the run reads what the rest of the run leaves. -/
theorem bufferWriteReplacesExactlyThoseBytes : Obligations.BufferWriteReplacesExactlyThoseBytes := by
  intro m a bs c hwf
  induction bs generalizing m a with
  | nil => rw [Memory.writeBytes, if_neg (by simp)]
  | cons b bs ih =>
    have hrest := ih (m.write a b) (a + 1) (Memory.write_wf hwf a b)
    rw [Memory.writeBytes, hrest, Memory.read_write hwf]
    simp only [List.length_cons]
    by_cases hin : a + 1 ≤ c ∧ c < a + 1 + bs.length
    · rw [if_pos hin, if_pos (by omega), show c - a = c - (a + 1) + 1 by omega, List.getD_cons_succ]
    · rw [if_neg hin]
      by_cases hc : c = a
      · rw [if_pos hc, if_pos (by omega), hc, Nat.sub_self, List.getD_cons_zero]
      · rw [if_neg hc, if_neg (by omega)]

/-! ### The incremental checksum -/

/-- The zero byte that pads an odd sequence to whole words may as well be there. -/
theorem words_append_zero {b : List Byte} (h : b.length % 2 = 1) : words (b ++ [0#8]) = words b := by
  induction b using words.induct with
  | case1 => simp at h
  | case2 x => rfl
  | case3 x y rest ih =>
    simp only [List.cons_append, words, ih (by simpa [Nat.add_mod_right, Nat.add_assoc] using h)]

/-- Settles O10: the command is one write of `RES_CSUM`; the fixed cases are evaluated, the padding is in `words`. -/
theorem csadjStoresAdjustedChecksum : Obligations.CsadjStoresAdjustedChecksum := by
  refine ⟨fun s hA hB => ?runs, fun zb c => ?empty, by decide, by decide, by decide, by decide, by decide,
    fun zb c o n ho => ?old, fun zb c o n hn => ?new⟩
  case runs =>
    rw [exec, execCsadj, withBufA_fits hA, withBufB_fits hB]
    rfl
  case empty =>
    simp only [adjustChecksum, words, List.foldl_nil, BitVec.ofNat_toNat, BitVec.setWidth_eq, BitVec.not_not]
  case old => rw [adjustChecksum, words_append_zero ho, adjustChecksum]
  case new => rw [adjustChecksum, words_append_zero hn, adjustChecksum]

/-! ### Gating -/

/-- Settles O12: each gate is the first thing its commands meet. -/
theorem refusedCommandOnlySetsStatus : Obligations.RefusedCommandOnlySetsStatus := by
  refine ⟨fun s i hdetached hi => ?detached, fun s => exec_attach_attached, fun s i hreads hgate hlong => ?long,
    fun s hA hB => by rw [exec, execCsadj, withBufA_fits hA, withBufB_long hB]⟩
  case detached =>
    cases i with
    | attach | csrWr | csrRd | csum | csadj => cases hi
    | _ => exact whenAttached_detached hdetached
  case long =>
    have hattached : acceptedDetached i = false → s.ctrl.attached = true := fun hi => hgate.resolve_right (by simp [hi])
    cases i with
    | csum => rw [exec, execCsum, withBufA_long hlong]
    | csadj => rw [exec, execCsadj, withBufA_long hlong]
    | rx | tx | arpRx | rqEnq | xlOut | xlIn | dhRx =>
      exact (whenAttached_attached (hattached rfl)).trans (withBufA_long hlong)
    | _ => cases hreads

end Sys2Proof.Machine

/-!
What a command writes (spec/10_state.md sections 2 to 8). For each operation of a unit an equation says which fields it writes:
the new values stand on its right side as fields of the state it leaves, as in `DhFrameOf`. `State.writtenBy` is the same
equation for every command.
-/

namespace Sys2Proof.Machine

/-! ### What the operations on the queue and on received ARP frames write -/

/-- The retry pool, its counters and the outputs of sends: what routing a packet may write (42_retry_queue.md R172). -/
def RouteFrameOf (s u : State) : Prop :=
  u = { s with
        rq := u.rq, events := u.events, answers := u.answers, sendCount := u.sendCount,
        stats := { s.stats with
          rqFull := u.stats.rqFull, noRoute := u.stats.noRoute, txFail := u.stats.txFail,
          txDiscard := u.stats.txDiscard } }

theorem rqEnqueue_frame (s : State) (d : IpAddr) (b : List Byte) : RouteFrameOf s (rqEnqueue s d b).1 := by
  rcases rqEnqueue_cases s d b with ⟨-, h⟩ | ⟨-, -, -, h⟩ | ⟨-, -, -, -, h⟩ | ⟨i, -, -, -, -, h⟩ <;> rw [h] <;> rfl

theorem bridgeRoute_frame (s : State) (q : List Byte) : RouteFrameOf s (bridgeRoute s q).1 := by
  rcases bridgeRoute_cases s q with ⟨-, h⟩ | ⟨-, ⟨m, -, h⟩ | ⟨-, h⟩⟩ <;> rw [h]
  · rfl
  · rfl
  · exact rqEnqueue_frame s _ q

/-- The pool, `stat_tx_fail` and the outputs of sends: what a flush may write (42_retry_queue.md R178). -/
def FlushFrameOf (s u : State) : Prop :=
  u = { s with
        rq := u.rq, events := u.events, answers := u.answers, sendCount := u.sendCount,
        stats := { s.stats with txFail := u.stats.txFail } }

theorem rqFlush_frame (s : State) (ip : IpAddr) (m : MacAddr) : FlushFrameOf s (rqFlush s ip m).1 := by
  rw [rqFlush_eq, afterSends_eq]
  rfl

/-- What the handler of a received ARP frame may write (41_arp_cache.md R154). -/
def ArpRxFrameOf (s u : State) : Prop :=
  u = { s with
        arp := u.arp, rq := u.rq, events := u.events, answers := u.answers, sendCount := u.sendCount,
        stats := { s.stats with
          txFail := u.stats.txFail, rxDiscard := u.stats.rxDiscard, arpNospace := u.stats.arpNospace } }

theorem arpHandleFrame_frame (s : State) (f : List Byte) : ArpRxFrameOf s (arpHandleFrame s f).1 := by
  obtain ⟨t, n, hu, -⟩ := arpUpdate_frame s (be32 f 28) (be48 f 22) 0#16
  rcases arpHandleFrame_cases s f with ⟨-, h⟩ | ⟨-, -, -, -, h⟩ | ⟨-, -, -, -, h⟩ | ⟨-, -, h⟩ <;> rw [h]
  · rfl
  · rw [State.sendFrame_fst, hu]
    rfl
  · rw [hu, rqFlush_eq, afterSends_eq]
    rfl
  · rw [hu]
    rfl

/-! ### What the translations write -/

/-- The port map and the two counters of an outbound drop (43_translator.md R192, R204, R205). -/
def XlOutFrameOf (s u : State) : Prop :=
  u = { s with
        pmap := u.pmap, stats := { s.stats with txDiscard := u.stats.txDiscard, pmapFull := u.stats.pmapFull } }

/-- The port map and the counter of an inbound drop (43_translator.md R210). -/
def XlInFrameOf (s u : State) : Prop :=
  u = { s with pmap := u.pmap, stats := { s.stats with rxDiscard := u.stats.rxDiscard } }

/-- A rewrite answers its own state, or what its TCP part answers. -/
theorem readdress_cases (s : State) (h : IpHeader) (pkt : List Byte) (off : Nat) (old new : IpAddr)
    (tcp : TcpHeader → List Byte → List Byte → XlResult) :
    (∃ q, readdress s h pkt off old new tcp = (s, .ok, some q))
      ∨ ∃ t, tcpDecode (pkt.drop h.hl) = some t ∧ readdress s h pkt off old new tcp
          = tcp t (rewriteIpHeader s.params (pkt.take h.hl) off (be16 pkt 10) old new)
              (adjustTcp s.params (pkt.drop h.hl) (bytes32 old) (bytes32 new)) := by
  simp only [readdress]
  split
  · exact .inl ⟨_, rfl⟩
  · split
    · split <;> exact .inl ⟨_, rfl⟩
    · split
      · split
        · exact .inl ⟨_, rfl⟩
        · exact .inr ⟨_, by assumption, rfl⟩
      · exact .inl ⟨_, rfl⟩

/-- Everything the outbound translation can do: drop what does not decode, pass or rewrite a packet on the same state, or go
on with a TCP segment. -/
theorem xlOut_cases (s : State) (b : List Byte) :
    (xlOut s b).1 = s.count .txDiscard ∨ (xlOut s b).1 = s
      ∨ ∃ h t hdr seg, xlOut s b = xlOutTcp s h t hdr seg := by
  cases hd : ipDecode b with
  | none => exact .inl (by rw [xlOut_of_undecodable hd])
  | some h =>
    right
    by_cases hpass : s.ident.xlActive = false ∨ h.src ≠ s.ident.externalHostIp
    · exact .inl (by rw [xlOut_of_passes hd hpass])
    · obtain ⟨hact, hsrc⟩ : s.ident.xlActive = true ∧ h.src = s.ident.externalHostIp := by simpa using hpass
      rw [xlOut_of_translates hd hact hsrc]
      rcases readdress_cases s h (b.take h.tl) 12 s.ident.externalHostIp s.ident.ownIp (xlOutTcp s h)
        with ⟨q, hq⟩ | ⟨t, -, ht⟩
      · exact .inl (by rw [hq])
      · exact .inr ⟨h, t, _, _, ht⟩

/-- Everything the inbound translation can do to the state. -/
theorem xlIn_cases (s : State) (b : List Byte) :
    (xlIn s b).1 = s.count .rxDiscard ∨ (xlIn s b).1 = s ∨ ∃ t hdr seg, xlIn s b = xlInTcp s t hdr seg := by
  cases hd : ipDecode b with
  | none => exact .inl (by rw [xlIn_of_undecodable hd])
  | some h =>
    right
    by_cases hpass : s.ident.xlActive = false ∨ h.dst ≠ s.ident.ownIp
    · exact .inl (by rw [xlIn_of_passes hd hpass])
    · obtain ⟨hact, hdst⟩ : s.ident.xlActive = true ∧ h.dst = s.ident.ownIp := by simpa using hpass
      rw [xlIn_of_translates hd hact hdst]
      rcases readdress_cases s h (b.take h.tl) 16 s.ident.ownIp s.ident.externalHostIp (xlInTcp s)
        with ⟨q, hq⟩ | ⟨t, -, ht⟩
      · exact .inl (by rw [hq])
      · exact .inr ⟨t, _, _, ht⟩

/-- The state a `PORT` rewrite leaves (43_translator.md R203 to R205): unchanged, a drop counted, the flow's entry moved on, or
a new entry in the lowest free slot. -/
theorem xlOutFtp_state (s : State) (h : IpHeader) (t : TcpHeader) (hdr seg : List Byte) (e : Option Nat) :
    let u := (xlOutFtp s h t hdr seg e).1
    u = s ∨ u = s.count .txDiscard ∨ u = s.count .pmapFull
      ∨ (∃ i d, e = some i ∧ u = { s with
          pmap := s.pmap.modify i fun x => { x with seqAdjust := x.seqAdjust + d, lastSeq := t.seq } })
      ∨ ∃ i d, e = none ∧ pmapFreeSlot s.pmap = some i
          ∧ u = { s with pmap := s.pmap.set i ⟨t.sport, t.dport, 0#16, d, t.seq⟩ } := by
  intro u
  simp only [u, xlOutFtp]
  split
  · split
    · exact .inl rfl
    · split
      · exact .inl rfl
      · simp only [xlOutGrow]
        split
        · exact .inr (.inl rfl)
        · cases e with
          | some i => exact .inr (.inr (.inr (.inl ⟨i, _, rfl, rfl⟩)))
          | none =>
            cases hfree : pmapFreeSlot s.pmap with
            | none => exact .inr (.inr (.inl rfl))
            | some i => exact .inr (.inr (.inr (.inr ⟨i, _, rfl, rfl, rfl⟩)))
  · exact .inl rfl

/-- A TCP segment outbound: its flow is unknown, or its entry is cleared by a SYN, or its close timer is armed or left; then
comes the `PORT` rewrite (43_translator.md R199). -/
theorem xlOutTcp_cases (s : State) (h : IpHeader) (t : TcpHeader) (hdr seg : List Byte) :
    (pmapFind s.pmap t.sport t.dport = none ∧ xlOutTcp s h t hdr seg = xlOutFtp s h t hdr seg none)
      ∨ ∃ i, pmapFind s.pmap t.sport t.dport = some i
          ∧ ((t.syn = true ∧ xlOutTcp s h t hdr seg = xlOutFtp (s.clearFlow i) h t hdr seg none)
            ∨ (t.syn = false ∧ xlOutTcp s h t hdr seg = xlOutFtp (s.armClose (some i) t) h t hdr
                (shiftSeq s.params (pmapGet s i) t seg) (some i))) := by
  simp only [xlOutTcp]
  split
  · exact .inl ⟨by assumption, rfl⟩
  · refine .inr ⟨_, by assumption, ?_⟩
    split
    · exact .inl ⟨by assumption, rfl⟩
    · exact .inr ⟨by simpa using ‹¬ t.syn = true›, rfl⟩

/-- A TCP segment inbound. -/
theorem xlInTcp_state (s : State) (t : TcpHeader) (hdr seg : List Byte) :
    let u := (xlInTcp s t hdr seg).1
    u = s ∨ (∃ i, u = s.clearFlow i) ∨ ∃ i, u = s.armClose (some i) t := by
  intro u
  simp only [u, xlInTcp]
  split
  · exact .inl rfl
  · split
    · exact .inr (.inl ⟨_, rfl⟩)
    · exact .inr (.inr ⟨_, rfl⟩)

theorem XlOutFrameOf.trans {s u v : State} (h1 : XlOutFrameOf s u) (h2 : XlOutFrameOf u v) : XlOutFrameOf s v := by
  unfold XlOutFrameOf at *
  rw [h1] at h2
  exact h2

theorem armClose_xlOutFrame (s : State) (i : Option Nat) (t : TcpHeader) : XlOutFrameOf s (s.armClose i t) := by
  obtain ⟨l, h, -⟩ := armClose_frame s i t
  rw [h]
  rfl

theorem xlOutFtp_frame (s : State) (h : IpHeader) (t : TcpHeader) (hdr seg : List Byte) (e : Option Nat) :
    XlOutFrameOf s (xlOutFtp s h t hdr seg e).1 := by
  rcases xlOutFtp_state s h t hdr seg e with h | h | h | ⟨i, d, -, h⟩ | ⟨i, d, -, -, h⟩ <;> rw [h] <;> rfl

theorem xlOut_frame (s : State) (b : List Byte) : XlOutFrameOf s (xlOut s b).1 := by
  rcases xlOut_cases s b with h | h | ⟨ip, t, hdr, seg, h⟩
  · rw [h]
    rfl
  · rw [h]
    rfl
  · rw [h]
    rcases xlOutTcp_cases s ip t hdr seg with ⟨-, h⟩ | ⟨i, -, ⟨-, h⟩ | ⟨-, h⟩⟩ <;> rw [h]
    · exact xlOutFtp_frame ..
    · exact XlOutFrameOf.trans (u := s.clearFlow i) rfl (xlOutFtp_frame ..)
    · exact (armClose_xlOutFrame s (some i) t).trans (xlOutFtp_frame ..)

theorem xlIn_frame (s : State) (b : List Byte) : XlInFrameOf s (xlIn s b).1 := by
  rcases xlIn_cases s b with h | h | ⟨t, hdr, seg, h⟩
  · rw [h]
    rfl
  · rw [h]
    rfl
  · rw [h]
    rcases xlInTcp_state s t hdr seg with h | ⟨i, h⟩ | ⟨i, h⟩ <;> rw [h]
    · rfl
    · rfl
    · obtain ⟨l, h, -⟩ := armClose_frame s (some i) t
      rw [h]
      rfl

/-! ### What the handlers of the bridge write -/

/-- What the handler of a received frame may write (45_bridge.md R295). -/
def RxFrameOf (s u : State) : Prop :=
  u = { s with
        ident := { s.ident with
          ownIp := u.ident.ownIp, ownMask := u.ident.ownMask, gatewayIp := u.ident.gatewayIp },
        dhcp := u.dhcp, arp := u.arp, rq := u.rq, pmap := u.pmap,
        stats := { s.stats with
          txFail := u.stats.txFail, rxDiscard := u.stats.rxDiscard, dhcpDiscard := u.stats.dhcpDiscard,
          arpNospace := u.stats.arpNospace },
        events := u.events, answers := u.answers, sendCount := u.sendCount }

theorem bridgeRx_frame (s : State) (f : List Byte) : RxFrameOf s (bridgeRx s f).1 := by
  rcases bridgeRx_cases s f with h | h | h | ⟨ip, u, q, -, -, -, hx, h⟩ <;> rw [h]
  · rfl
  · have harp := arpHandleFrame_frame s f
    unfold ArpRxFrameOf at harp
    rw [harp]
    rfl
  · obtain ⟨hdh, -, -⟩ := dhReceive_frame s f
    unfold DhFrameOf at hdh
    rw [hdh]
    rfl
  · have hin : XlInFrameOf s u := by simpa only [hx] using xlIn_frame s ((f.drop 14).take ip.tl)
    unfold XlInFrameOf at hin
    rw [hin]
    rfl

/-- What the handler of a host packet may write, after `rfnm_count` (45_bridge.md R298). -/
def TxFrameOf (s u : State) : Prop :=
  u = { s with
        rq := u.rq, pmap := u.pmap, events := u.events, answers := u.answers, sendCount := u.sendCount,
        stats := { s.stats with
          rqFull := u.stats.rqFull, txFail := u.stats.txFail, pmapFull := u.stats.pmapFull, noRoute := u.stats.noRoute,
          txDiscard := u.stats.txDiscard } }

theorem bridgeTxBody_frame (s : State) (b : List Byte) : TxFrameOf s (bridgeTxBody s b).1 := by
  rcases bridgeTxBody_cases s b with ⟨st, h⟩ | ⟨ip, -, -, -, ⟨u, st, hx, h⟩ | ⟨u, st, q, hx, h⟩⟩ <;> rw [h]
  · rfl
  · have hout : XlOutFrameOf s u := by simpa only [hx] using xlOut_frame s b
    unfold XlOutFrameOf at hout
    rw [hout]
    rfl
  · have hout : XlOutFrameOf s u := by simpa only [hx] using xlOut_frame s b
    have hroute := bridgeRoute_frame u q
    unfold XlOutFrameOf at hout
    unfold RouteFrameOf at hroute
    rw [hroute, hout]
    rfl

/-- What a register write may write (45_bridge.md R305). -/
def CsrFrameOf (s u : State) : Prop :=
  u = { s with
        ident := u.ident, ctrl := { s.ctrl with dhcpWant := u.ctrl.dhcpWant },
        stats := { s.stats with rfnm := u.stats.rfnm } }

theorem State.writeCsr_frame (s : State) (v : BitVec 48) (r : Csr) : CsrFrameOf s (s.writeCsr v r).1 := by
  have detached : ∀ i, CsrFrameOf s (s.writeDetached i).1 := fun i => by
    rw [State.writeDetached]
    split <;> rfl
  cases r with
  | ownMac | ownIp | ownMask => exact detached _
  | _ => rfl

/-! ### The frame of every command -/

/-- Sending a message leaves the state, or sends one frame. -/
theorem dhSend_state (s : State) (k : DhMessage) : (dhSend s k).1 = s ∨ ∃ f, (dhSend s k).1 = s.afterSend f := by
  rw [dhSend_eq]
  split
  · exact .inl rfl
  · exact .inr ⟨_, rfl⟩

/-- What a timer or a release of the DHCP client may write: its registers, the three addresses, the outputs of sends. -/
def DhTimerFrameOf (s u : State) : Prop :=
  u = { s with
        ident := { s.ident with
          ownIp := u.ident.ownIp, ownMask := u.ident.ownMask, gatewayIp := u.ident.gatewayIp },
        dhcp := u.dhcp, stats := { s.stats with txFail := u.stats.txFail },
        events := u.events, answers := u.answers, sendCount := u.sendCount }

theorem DhTimerFrameOf.trans {s u v : State} (h1 : DhTimerFrameOf s u) (h2 : DhTimerFrameOf u v) :
    DhTimerFrameOf s v := by
  unfold DhTimerFrameOf at *
  rw [h1] at h2
  exact h2

theorem dhSend_timerFrame (s : State) (k : DhMessage) : DhTimerFrameOf s (dhSend s k).1 := by
  rcases dhSend_state s k with h | ⟨f, h⟩ <;> rw [h] <;> rfl

/-- A send on a state with the DHCP registers written. -/
theorem dhSend_setDhcp_timerFrame (s : State) (d : Dhcp) (k : DhMessage) :
    DhTimerFrameOf s (dhSend (s.setDhcp d) k).1 :=
  DhTimerFrameOf.trans (u := s.setDhcp d) rfl (dhSend_timerFrame _ k)

theorem dhTick_timerFrame (s : State) : DhTimerFrameOf s (dhTick s).1 := by
  have retry : ∀ k, DhTimerFrameOf s (dhRetry s k).1 := fun k => by
    rcases dhRetry_cases s k with ⟨-, h⟩ | ⟨-, r, rfl, h⟩ <;> rw [h]
    · rfl
    · exact (dhSend_setDhcp_timerFrame s _ k).trans rfl
  have off : DhTimerFrameOf s (dhTickOff s).1 := by
    rw [dhTickOff]
    split
    · exact (dhSend_setDhcp_timerFrame s _ .discover).trans rfl
    · rfl
  have bound : DhTimerFrameOf s (dhTickBound s).1 := by
    have counted : DhTimerFrameOf s (dhCountDown s) := rfl
    simp only [dhTickBound]
    repeat' split
    · rfl
    · exact counted.trans (dhSend_setDhcp_timerFrame _ _ .requestRenewing)
    · exact counted.trans (dhSend_setDhcp_timerFrame _ _ .requestRebinding)
    · exact counted
  simp only [dhTick]
  split
  case h_1 | h_2 | h_3 => exact off
  case h_4 | h_5 => exact retry _
  case h_6 | h_7 | h_8 => exact bound

theorem dhReleaseBody_timerFrame (s : State) : DhTimerFrameOf s (dhReleaseBody s).1 := by
  have released : DhTimerFrameOf s (dhClear (dhSend s .release).1) := (dhSend_timerFrame s .release).trans rfl
  simp only [dhReleaseBody]
  split
  case h_1 | h_2 | h_3 => exact released
  all_goals rfl

theorem dhRelease_timerFrame (s : State) :
    DhTimerFrameOf { s with ctrl := { s.ctrl with dhcpWant := false } } (dhRelease s).1 := by
  have h := dhReleaseBody_timerFrame s
  unfold DhTimerFrameOf at h ⊢
  rw [dhRelease, h]

/-! ### The frame of every command -/

/-- The state with the fields that a command may write taken from another state: `STATUS`, and what its rules name
(10_state.md sections 2 to 8). -/
def State.writtenBy (s u : State) (i : Instr) : State :=
  let s : State := { s with port := { s.port with status := u.port.status } }
  let sent : State := { s with
    events := u.events, answers := u.answers, sendCount := u.sendCount,
    stats := { s.stats with txFail := u.stats.txFail } }
  let leased : Identity := { s.ident with
    ownIp := u.ident.ownIp, ownMask := u.ident.ownMask, gatewayIp := u.ident.gatewayIp }
  match i with
  | .attach => { s with
      ctrl := { s.ctrl with attached := u.ctrl.attached }, arp := u.arp, rq := u.rq, pmap := u.pmap, dhcp := u.dhcp,
      stats := u.stats, events := u.events }
  | .detach => { sent with
      ident := leased, ctrl := u.ctrl, arp := u.arp, rq := u.rq, pmap := u.pmap, dhcp := u.dhcp }
  | .tick => { sent with
      ident := leased, arp := u.arp, rq := u.rq, pmap := u.pmap, dhcp := u.dhcp,
      stats := { sent.stats with rqExpired := u.stats.rqExpired } }
  | .rx => { sent with
      ident := leased, arp := u.arp, rq := u.rq, pmap := u.pmap, dhcp := u.dhcp,
      stats := { sent.stats with
        rxDiscard := u.stats.rxDiscard, dhcpDiscard := u.stats.dhcpDiscard, arpNospace := u.stats.arpNospace } }
  | .tx => { sent with
      rq := u.rq, pmap := u.pmap,
      stats := { sent.stats with
        rqFull := u.stats.rqFull, pmapFull := u.stats.pmapFull, noRoute := u.stats.noRoute,
        txDiscard := u.stats.txDiscard, rfnm := u.stats.rfnm } }
  | .csrWr => { s with
      ident := u.ident, ctrl := { s.ctrl with dhcpWant := u.ctrl.dhcpWant },
      stats := { s.stats with rfnm := u.stats.rfnm } }
  | .csrRd => { s with port := { s.port with resVal := u.port.resVal } }
  | .csum | .csadj => { s with port := { s.port with resCsum := u.port.resCsum } }
  | .arpLookup => { s with port := { s.port with resMac := u.port.resMac } }
  | .arpUpdate => { s with arp := u.arp, stats := { s.stats with arpNospace := u.stats.arpNospace } }
  | .arpAge => { s with arp := u.arp }
  | .arpReq => sent
  | .arpRx => { sent with
      arp := u.arp, rq := u.rq,
      stats := { sent.stats with rxDiscard := u.stats.rxDiscard, arpNospace := u.stats.arpNospace } }
  | .rqEnq => { sent with
      rq := u.rq,
      stats := { sent.stats with
        rqFull := u.stats.rqFull, noRoute := u.stats.noRoute, txDiscard := u.stats.txDiscard } }
  | .rqTick => { s with rq := u.rq, stats := { s.stats with rqExpired := u.stats.rqExpired } }
  | .rqFlush => { sent with rq := u.rq }
  | .xlOut => { s with
      bufOut := u.bufOut, port := { s.port with lenOut := u.port.lenOut }, pmap := u.pmap,
      stats := { s.stats with txDiscard := u.stats.txDiscard, pmapFull := u.stats.pmapFull } }
  | .xlIn => { s with
      bufOut := u.bufOut, port := { s.port with lenOut := u.port.lenOut }, pmap := u.pmap,
      stats := { s.stats with rxDiscard := u.stats.rxDiscard } }
  | .pmTick => { s with pmap := u.pmap }
  | .dhTick => { sent with ident := leased, dhcp := u.dhcp }
  | .dhRx => { sent with
      ident := leased, arp := u.arp, dhcp := u.dhcp,
      stats := { sent.stats with dhcpDiscard := u.stats.dhcpDiscard, arpNospace := u.stats.arpNospace } }
  | .dhRel => { sent with
      ident := leased, ctrl := { s.ctrl with dhcpWant := u.ctrl.dhcpWant }, dhcp := u.dhcp }

/-- A translation's state and the packet stored from it. -/
theorem storeOut_frame {r : XlResult} {t : State} (h : storeOut r = .next t) :
    t = { r.1 with
      bufOut := t.bufOut, port := { r.1.port with lenOut := t.port.lenOut, status := t.port.status } } := by
  rcases storeOut_next h with ⟨-, rfl⟩ | ⟨q, -, -, rfl⟩ <;> rfl

/-- A command that answers a next state wrote nothing but what its rules name. -/
theorem exec_writtenBy {i : Instr} {s t : State} (h : exec i s = .next t) : t = s.writtenBy t i := by
  rcases exec_next h with ⟨c, rfl⟩ | hran
  · cases i <;> rfl
  cases i with
  | attach | arpAge | rqTick | pmTick => obtain ⟨-, rfl⟩ := hran; rfl
  | csum | csadj => obtain rfl := hran; rfl
  | csrRd => obtain ⟨r, -, rfl⟩ := hran; rfl
  | arpLookup => obtain ⟨-, m, -, rfl⟩ := hran; rfl
  | detach =>
    obtain ⟨-, rfl⟩ := hran
    rw [show _ = _ from dhRelease_timerFrame s]
    rfl
  | tick =>
    obtain ⟨-, rfl⟩ := hran
    rw [show _ = _ from dhTick_timerFrame (arpAgeTick s)]
    rfl
  | rx =>
    obtain ⟨-, rfl⟩ := hran
    rw [ended, show _ = _ from bridgeRx_frame s s.operandA]
    rfl
  | tx =>
    obtain ⟨-, rfl⟩ := hran
    rw [ended, show _ = _ from bridgeTxBody_frame (s.count .rfnm) s.operandA]
    rfl
  | csrWr =>
    obtain ⟨r, -, rfl⟩ := hran
    rw [ended, show _ = _ from s.writeCsr_frame s.port.opVal r]
    rfl
  | arpUpdate =>
    obtain ⟨-, rfl⟩ := hran
    obtain ⟨l, n, hf, -⟩ := arpUpdate_frame s s.port.opIp s.port.opMac s.port.opAge
    rw [ended, hf]
    rfl
  | arpReq =>
    obtain ⟨-, rfl⟩ := hran
    rw [ended, arpSendRequest_eq]
    rfl
  | arpRx =>
    obtain ⟨-, rfl⟩ := hran
    rw [ended, show _ = _ from arpHandleFrame_frame s s.operandA]
    rfl
  | rqEnq =>
    obtain ⟨-, rfl⟩ := hran
    rw [ended, show _ = _ from rqEnqueue_frame s s.port.opIp s.operandA]
    rfl
  | rqFlush =>
    obtain ⟨-, rfl⟩ := hran
    rw [ended, show _ = _ from rqFlush_frame s s.port.opIp s.port.opMac]
    rfl
  | xlOut =>
    obtain ⟨-, hstore⟩ := hran
    rw [storeOut_frame hstore, show _ = _ from xlOut_frame s s.operandA]
    rfl
  | xlIn =>
    obtain ⟨-, hstore⟩ := hran
    rw [storeOut_frame hstore, show _ = _ from xlIn_frame s s.operandA]
    rfl
  | dhTick =>
    obtain ⟨-, rfl⟩ := hran
    rw [ended, show _ = _ from dhTick_timerFrame s]
    rfl
  | dhRx =>
    obtain ⟨-, rfl⟩ := hran
    obtain ⟨hf, -, -⟩ := dhReceive_frame s s.operandA
    unfold DhFrameOf at hf
    rw [ended, hf]
    rfl
  | dhRel =>
    obtain ⟨-, rfl⟩ := hran
    rw [ended, show _ = _ from dhRelease_timerFrame s]
    rfl

end Sys2Proof.Machine

/-!
What a command emits (spec/30_encoding.md R82, R86 to R88; 45_bridge.md R303). Each operation of a unit emits frames alone,
of a length said by `FrameSized`; `RX` delivers a packet besides. With `State.writtenBy` this is the frame of every command.
-/

namespace Sys2Proof.Machine

/-! ### The frames of each operation -/

/-- The events from `s` to `u`: appended to the list, each as `p` says. -/
def Emits (p : Event → Prop) (s u : State) : Prop := ∃ l, u.events = s.events ++ l ∧ ∀ e ∈ l, p e

theorem Emits.none {p : Event → Prop} {s u : State} (h : u.events = s.events) : Emits p s u :=
  ⟨[], by rw [h, List.append_nil], by simp⟩

theorem Emits.one {p : Event → Prop} {s u : State} {e : Event} (h : u.events = s.events ++ [e]) (he : p e) :
    Emits p s u :=
  ⟨[e], h, by simpa using he⟩

theorem Emits.mono {p q : Event → Prop} {s s' u u' : State} (h : Emits p s u) (hpq : ∀ e, p e → q e)
    (hs : s'.events = s.events) (hu : u'.events = u.events) : Emits q s' u' := by
  obtain ⟨l, hl, hp⟩ := h
  exact ⟨l, by rw [hu, hs, hl], fun e he => hpq e (hp e he)⟩

/-- The length of a frame that the engine builds: padded, and no longer than the longest DHCP frame, a storable IP packet in
its frame, or a queued packet in its frame. -/
def FrameSized (s : State) (f : List Byte) : Prop :=
  s.params.ethMinPacket ≤ f.length
    ∧ (f.length ≤ max (max 302 (42 + s.params.dhcpMsgLen)) s.params.ethMinPacket
      ∨ f.length ≤ max (14 + s.params.ipMaxLen) s.params.ethMinPacket
      ∨ ∃ e ∈ s.rq, e.used = true ∧ f.length ≤ max (14 + e.ipPacket.length) s.params.ethMinPacket)

theorem FrameSized.congr {s u : State} {f : List Byte} (h : FrameSized s f) (hp : u.params = s.params)
    (hq : u.rq = s.rq) : FrameSized u f := by
  unfold FrameSized
  rw [hp, hq]
  exact h

/-- With legal parameters and a well-formed pool such a frame fits the wire (30_encoding.md R86). -/
theorem FrameSized.le_ethMaxPacket {s : State} {f : List Byte} (hlegal : s.params.legal = true) (hpool : RetryPoolOk s)
    (h : FrameSized s f) : f.length ≤ s.params.ethMaxPacket := by
  simp only [Params.legal, Params.framesOk, Bool.and_eq_true, decide_eq_true_eq] at hlegal
  obtain ⟨-, ⟨⟨⟨-, hmin⟩, hbody⟩, hdhcp⟩, -⟩ := hlegal
  obtain ⟨-, hlen | hlen | ⟨e, he, hused, hlen⟩⟩ := h
  · omega
  · rw [Params.ipMaxLen] at hlen
    omega
  · have hslot := hpool e he
    rw [RqSlotOk, if_pos hused] at hslot
    obtain ⟨-, -, -, -, hpkt, -⟩ := hslot
    rw [Params.ipMaxLen] at hpkt
    omega

/-- Sends and no other event, each of a frame as long as `FrameSized` says. -/
def EmitsFrames (s u : State) : Prop := Emits (fun e => ∃ f, e = .send f ∧ FrameSized s f) s u

theorem EmitsFrames.of_send {s u : State} {f : List Byte} (h : u.events = s.events ++ [.send f])
    (hf : FrameSized s f) : EmitsFrames s u :=
  .one h ⟨f, rfl, hf⟩

/-- Events are the same seen from another state with the same events, parameters and pool. -/
theorem EmitsFrames.congr {s s' u u' : State} (h : EmitsFrames s u) (hp : s'.params = s.params) (hq : s'.rq = s.rq)
    (hs : s'.events = s.events) (hu : u'.events = u.events) : EmitsFrames s' u' :=
  h.mono (fun _ ⟨f, he, hf⟩ => ⟨f, he, hf.congr hp hq⟩) hs hu

/-- ARP frames are 42 bytes and padding, shorter than a DHCP frame may be. -/
theorem frameSized_arp {s : State} {f : List Byte} (h : f.length = max 42 s.params.ethMinPacket) : FrameSized s f :=
  ⟨by omega, .inl (by omega)⟩

theorem frameSized_specIpFrame {s : State} {m : MacAddr} {q : List Byte} (h : q.length ≤ s.params.ipMaxLen) :
    FrameSized s (specIpFrame s m q) := by
  rw [FrameSized, length_specIpFrame]
  exact ⟨by omega, .inr (.inl (by omega))⟩

theorem arpSendRequest_emits (s : State) (ip : IpAddr) : EmitsFrames s (arpSendRequest s ip).1 := by
  rw [arpSendRequest_eq]
  exact .of_send rfl (frameSized_arp (length_specArpRequest s ip))

theorem rqEnqueue_emits (s : State) (d : IpAddr) (b : List Byte) : EmitsFrames s (rqEnqueue s d b).1 := by
  rcases rqEnqueue_cases s d b with ⟨-, h⟩ | ⟨-, -, -, h⟩ | ⟨-, -, -, -, h⟩ | ⟨i, -, -, -, -, h⟩ <;> rw [h]
  · exact .none rfl
  · exact .none rfl
  · exact .none rfl
  · exact .of_send rfl (frameSized_arp (length_specArpRequest s _))

theorem rqFlush_emits (s : State) (ip : IpAddr) (m : MacAddr) : EmitsFrames s (rqFlush s ip m).1 := by
  rw [rqFlush_eq, afterSends_eq]
  refine ⟨_, rfl, fun e he => ?_⟩
  simp only [List.map_map, List.mem_map, List.mem_filter, Function.comp_apply, RqSlot.awaits, Bool.and_eq_true] at he
  obtain ⟨slot, ⟨hmem, hused, -⟩, rfl⟩ := he
  refine ⟨_, rfl, ?_⟩
  rw [FrameSized, length_specIpFrame, List.length_take]
  exact ⟨by omega, .inr (.inr ⟨slot, hmem, hused, by omega⟩)⟩

theorem arpHandleFrame_emits (s : State) (f : List Byte) : EmitsFrames s (arpHandleFrame s f).1 := by
  obtain ⟨t, n, hu, -⟩ := arpUpdate_frame s (be32 f 28) (be48 f 22) 0#16
  rcases arpHandleFrame_cases s f with ⟨-, h⟩ | ⟨-, -, -, -, h⟩ | ⟨-, -, -, -, h⟩ | ⟨-, -, h⟩ <;> rw [h]
  · exact .none rfl
  · rw [State.sendFrame_fst, hu]
    exact .of_send rfl (frameSized_arp (length_specArpReply s _ _))
  · exact (rqFlush_emits _ _ _).congr (by rw [hu]) (by rw [hu]) (by rw [hu]) rfl
  · rw [hu]
    exact .none rfl

theorem DhSends.emits {s u : State} (h : DhSends s u) : EmitsFrames s u := by
  rcases h with ⟨h, -⟩ | ⟨f, h, -, -, -, hmin, hmax⟩
  · exact .none h
  · exact .of_send h ⟨hmin, .inl hmax⟩

theorem dhReceive_emits (s : State) (f : List Byte) : EmitsFrames s (dhReceive s f).1 := by
  obtain ⟨-, -, h | ⟨g, h, hmin, hmax⟩⟩ := dhReceive_frame s f
  · exact .none h
  · exact .of_send h ⟨hmin, .inl hmax⟩

theorem bridgeRoute_emits {s : State} {q : List Byte} (hq : q.length ≤ s.params.ipMaxLen) :
    EmitsFrames s (bridgeRoute s q).1 := by
  rcases bridgeRoute_cases s q with ⟨-, h⟩ | ⟨-, ⟨m, -, h⟩ | ⟨-, h⟩⟩ <;> rw [h]
  · exact .none rfl
  · exact .of_send rfl (frameSized_specIpFrame hq)
  · exact rqEnqueue_emits s _ q

theorem bridgeTxBody_emits (s : State) (b : List Byte) : EmitsFrames s (bridgeTxBody s b).1 := by
  rcases bridgeTxBody_cases s b with ⟨st, h⟩ | ⟨ip, hd, htl, -, ⟨u, st, hx, h⟩ | ⟨u, st, q, hx, h⟩⟩ <;> rw [h]
  · exact .none rfl
  · have hout : XlOutFrameOf s u := by simpa only [hx] using xlOut_frame s b
    exact .none (by rw [show u = _ from hout])
  · have hout : XlOutFrameOf s u := by simpa only [hx] using xlOut_frame s b
    have hlen : q.length ≤ s.params.ipMaxLen := by
      rcases xlOut_answers s b with ⟨hnone, -⟩ | ⟨h', hd', -, hanswer⟩
      · rw [hd] at hnone
        cases hnone
      · obtain rfl : ip = h' := Option.some.inj (hd.symm.trans hd')
        obtain ⟨-, -, hq⟩ := hanswer q (by rw [hx])
        omega
    have hparams : u.params = s.params := by rw [show u = _ from hout]
    have hrq : u.rq = s.rq := by rw [show u = _ from hout]
    have hevents : u.events = s.events := by rw [show u = _ from hout]
    exact (bridgeRoute_emits (hparams ▸ hlen)).congr hparams.symm hrq.symm hevents.symm rfl

/-! ### Delivery to the host -/

/-- If the TCP part keeps the header, the rewrite answers a packet that begins with the rewritten header. -/
theorem header_of_readdress {s : State} {h : IpHeader} {pkt q : List Byte} {off : Nat} {old new : IpAddr}
    {tcp : TcpHeader → List Byte → List Byte → XlResult}
    (htcp : ∀ {t hdr seg q}, (tcp t hdr seg).2.2 = some q → ∃ seg', q = hdr ++ seg')
    (hq : (readdress s h pkt off old new tcp).2.2 = some q) :
    ∃ seg, q = rewriteIpHeader s.params (pkt.take h.hl) off (be16 pkt 10) old new ++ seg := by
  simp only [readdress] at hq
  split at hq
  case isTrue => exact ⟨_, (Option.some.inj hq).symm⟩
  case isFalse =>
    split at hq
    case isTrue => split at hq <;> exact ⟨_, (Option.some.inj hq).symm⟩
    case isFalse =>
      split at hq
      case isFalse => exact ⟨_, (Option.some.inj hq).symm⟩
      case isTrue =>
        split at hq
        case h_1 => exact ⟨_, (Option.some.inj hq).symm⟩
        case h_2 => exact htcp hq

theorem header_of_xlInTcp {s : State} {t : TcpHeader} {hdr seg q : List Byte}
    (hq : (xlInTcp s t hdr seg).2.2 = some q) : ∃ seg', q = hdr ++ seg' := by
  simp only [xlInTcp] at hq
  split at hq
  case h_1 => exact ⟨_, (Option.some.inj hq).symm⟩
  case h_2 => split at hq <;> exact ⟨_, (Option.some.inj hq).symm⟩

/-- An inbound packet keeps its total length field; its destination is the one it had or `external_host_ip`
(43_translator.md R210, R211). -/
theorem xlIn_fields {s : State} {b q : List Byte} {h : IpHeader} (hd : ipDecode b = some h)
    (hq : (xlIn s b).2.2 = some q) :
    be16 q 2 = be16 b 2 ∧ (be32 q 16 = h.dst ∨ be32 q 16 = s.ident.externalHostIp) := by
  obtain ⟨-, -, hhl, htl, hlen, -, -, -, hdst⟩ := ipDecode_some hd
  by_cases hpass : s.ident.xlActive = false ∨ h.dst ≠ s.ident.ownIp
  · rw [xlIn_of_passes hd hpass] at hq
    obtain rfl : b.take h.tl = q := Option.some.inj hq
    rw [be16_take (by omega), be32_take (by omega)]
    exact ⟨rfl, .inl hdst.symm⟩
  · obtain ⟨hact, hown⟩ : s.ident.xlActive = true ∧ h.dst = s.ident.ownIp := by simpa using hpass
    rw [xlIn_of_translates hd hact hown] at hq
    obtain ⟨seg, rfl⟩ := header_of_readdress header_of_xlInTcp hq
    have hhdr : ((b.take h.tl).take h.hl).length = h.hl := by
      rw [List.length_take, List.length_take]
      omega
    rw [be16_append_left (by simp only [length_rewriteIpHeader]; omega),
      be32_append_left (by simp only [length_rewriteIpHeader]; omega), rewriteIpHeader]
    rw [be16_put32_of_ne (by omega), be16_put16_of_ne (by omega), be16_take (by omega), be16_take (by omega),
      be32_put32 (by simp only [length_put16]; omega)]
    exact ⟨rfl, .inr rfl⟩

/-- A packet as `RX` delivers it (45_bridge.md R303 (g)). -/
def DeliveredOk (s : State) (p : List Byte) : Prop :=
  20 ≤ p.length ∧ (be16 p 2).toNat = p.length
    ∧ (be32 p 16 = s.ident.externalHostIp ∨ be32 p 16 = s.ident.ownIp ∨ be32 p 16 = 0xFFFFFFFF#32)

/-- A packet for the host is delivered at its total length, to the host or as it was addressed. -/
theorem deliverIn_emits {s : State} {b : List Byte} {h : IpHeader} (hd : ipDecode b = some h)
    (hhost : isForHost s h = true) : ∃ p, DeliveredOk s p ∧ (deliverIn s b).1.events = s.events ++ [.hostDeliver p] := by
  obtain ⟨-, htl, hhl, hle, -⟩ := ipDecode_some hd
  obtain ⟨u, q, hx, hlen, hdeliver⟩ := deliverIn_of_decoded s hd
  obtain ⟨hfield, hdst⟩ := xlIn_fields hd (congrArg (·.2.2) hx)
  have hin : XlInFrameOf s u := by simpa only [hx] using xlIn_frame s b
  have hevents : u.events = s.events := by rw [show u = _ from hin]
  refine ⟨q, ⟨by omega, by rw [hfield]; omega, ?_⟩, by rw [hdeliver, State.emit_events, hevents]⟩
  have hfor := (isForHost_iff s h).1 hhost
  rcases hdst with hdst | hdst
  · rw [hdst]
    tauto
  · exact .inl hdst

/-- What `RX` emits: the frames of its ARP or DHCP branch, or one delivery (45_bridge.md R295). -/
theorem bridgeRx_emits (s : State) (f : List Byte) :
    EmitsFrames s (bridgeRx s f).1
      ∨ ∃ p, DeliveredOk s p ∧ (bridgeRx s f).1.events = s.events ++ [.hostDeliver p] := by
  have discarded : bridgeRx s f = rxDiscard s → EmitsFrames s (bridgeRx s f).1 := fun h => .none (by rw [h]; rfl)
  by_cases hsize : 14 ≤ f.length ∧ f.length ≤ s.params.ethMaxPacket
  · by_cases harp : be16 f 12 = 0x0806#16
    · rw [bridgeRx_of_arp hsize harp]
      exact .inl (arpHandleFrame_emits s f)
    · by_cases hip : be16 f 12 = 0x0800#16
      · rw [bridgeRx_of_ip hsize hip]
        cases hd : ipDecode (f.drop 14) with
        | none => exact .inl (.none (by rw [bridgeRxIp_of_undecodable hd]; rfl))
        | some h =>
          rw [bridgeRxIp_of_decoded hd]
          split
          · exact .inl (dhReceive_emits s f)
          · split
            · exact .inr (deliverIn_emits (ipDecode_take hd) (by assumption))
            · exact .inl (.none rfl)
      · exact .inl (discarded (by rw [bridgeRx_of_sized hsize, if_neg harp, if_neg hip]))
  · exact .inl (discarded (bridgeRx_of_unsized hsize))

/-! ### The events of every command -/

/-- What an event of a command may be (30_encoding.md R82, R86 to R88). -/
def EventOf (s : State) (i : Instr) : Event → Prop
  | .send f => FrameSized s f ∧ i ∈ [.detach, .tick, .rx, .tx, .arpReq, .arpRx, .rqEnq, .rqFlush, .dhTick, .dhRx, .dhRel]
  | .setFilter m x => i = .attach ∧ m = s.ident.ownMac ∧ x = []
  | .hostDeliver p => i = .rx ∧ DeliveredOk s p

theorem EmitsFrames.eventOf {s u u' : State} {i : Instr} (h : EmitsFrames s u)
    (hi : i ∈ [.detach, .tick, .rx, .tx, .arpReq, .arpRx, .rqEnq, .rqFlush, .dhTick, .dhRx, .dhRel])
    (hu : u'.events = u.events) : Emits (EventOf s i) s u' :=
  h.mono (fun e ⟨f, he, hf⟩ => by subst he; exact ⟨hf, hi⟩) rfl hu

/-- The events of a command are appended to the list, each one that the command may emit. -/
theorem exec_emits {i : Instr} {s t : State} (h : exec i s = .next t) : Emits (EventOf s i) s t := by
  have hframe := exec_writtenBy h
  rcases exec_next h with ⟨c, rfl⟩ | hran
  · exact .none rfl
  cases i with
  | attach =>
    obtain ⟨-, rfl⟩ := hran
    exact .one rfl ⟨rfl, rfl, rfl⟩
  | detach =>
    obtain ⟨-, rfl⟩ := hran
    obtain ⟨-, -, -, hsends⟩ := dhRelease_frame s
    exact hsends.emits.eventOf (by decide) rfl
  | tick =>
    obtain ⟨-, rfl⟩ := hran
    obtain ⟨-, -, hsends⟩ := dhTick_frame (arpAgeTick s)
    exact (hsends.emits.congr (s' := s) rfl rfl rfl rfl).eventOf (by decide) rfl
  | rx =>
    obtain ⟨-, rfl⟩ := hran
    rcases bridgeRx_emits s s.operandA with hsends | ⟨p, hp, hdeliver⟩
    · exact hsends.eventOf (by decide) rfl
    · exact .one hdeliver ⟨rfl, hp⟩
  | tx =>
    obtain ⟨-, rfl⟩ := hran
    exact ((bridgeTxBody_emits (s.count .rfnm) _).congr (s' := s) rfl rfl rfl rfl).eventOf (by decide) rfl
  | arpReq =>
    obtain ⟨-, rfl⟩ := hran
    exact (arpSendRequest_emits s _).eventOf (by decide) rfl
  | arpRx =>
    obtain ⟨-, rfl⟩ := hran
    exact (arpHandleFrame_emits s _).eventOf (by decide) rfl
  | rqEnq =>
    obtain ⟨-, rfl⟩ := hran
    exact (rqEnqueue_emits s _ _).eventOf (by decide) rfl
  | rqFlush =>
    obtain ⟨-, rfl⟩ := hran
    exact (rqFlush_emits s _ _).eventOf (by decide) rfl
  | dhTick =>
    obtain ⟨-, rfl⟩ := hran
    obtain ⟨-, -, hsends⟩ := dhTick_frame s
    exact hsends.emits.eventOf (by decide) rfl
  | dhRx =>
    obtain ⟨-, rfl⟩ := hran
    exact (dhReceive_emits s _).eventOf (by decide) rfl
  | dhRel =>
    obtain ⟨-, rfl⟩ := hran
    obtain ⟨-, -, -, hsends⟩ := dhRelease_frame s
    exact hsends.emits.eventOf (by decide) rfl
  | _ => exact .none (by rw [hframe]; rfl)

/-- Settles O56: each clause is read off the fields that the command writes. -/
theorem commandsChangeOnlyWhatTheyName : Obligations.CommandsChangeOnlyWhatTheyName := by
  intro s t i h
  obtain ⟨l, hevents, -⟩ := exec_emits h
  obtain ⟨u, rfl⟩ : ∃ u, t = s.writtenBy u i := ⟨t, exec_writtenBy h⟩
  cases i with
  | csrWr | csrRd | csum | csadj | arpLookup | arpUpdate | arpAge | rqTick | xlOut | xlIn | pmTick =>
    simp [State.writtenBy]
  | _ =>
    simpa [State.writtenBy] using ⟨l, hevents⟩

/-- Settles O57: with legal parameters a frame of `FrameSized` fits the wire. -/
theorem emittedEventsAreWellFormed : Obligations.EmittedEventsAreWellFormed := by
  intro s t i hlegal hpool h
  obtain ⟨l, hevents, hof⟩ := exec_emits h
  refine ⟨l, hevents, fun f hf => ?sent, fun m x hm => hof _ hm, fun p hp => hof _ hp⟩
  case sent =>
    obtain ⟨hsized, hi⟩ := hof _ hf
    exact ⟨hsized.1, hsized.le_ethMaxPacket hlegal hpool, hi⟩

/-- Settles O53: `TX` counts first, and no other field of the rest of its work is `rfnm_count`; the other commands by O56. -/
theorem rfnmCountsEveryTx : Obligations.RfnmCountsEveryTx := by
  refine ⟨fun s ha hl => ?counted, fun s t i htx hattach hwr h => ?kept⟩
  case counted =>
    obtain ⟨-, hrun, -⟩ := exec_attached_bufA ha hl
    refine ⟨_, hrun, ?_⟩
    have hf : TxFrameOf (s.count .rfnm) (bridgeTx s s.operandA).1 := bridgeTxBody_frame _ _
    rw [show (bridgeTx s s.operandA).1 = _ from hf]
    rfl
  case kept =>
    rw [exec_writtenBy h]
    cases i with
    | tx => exact absurd rfl htx
    | attach => exact absurd rfl hattach
    | csrWr => exact absurd rfl hwr
    | _ => rfl

end Sys2Proof.Machine

/-!
The invariants that every step keeps (spec/10_state.md R27 to R48). The environment writes none of the tables, and of the
commands `State.writtenBy` says which may write a table; what those can make of it is said once per table, by `ArpWrite`,
and `RqWrite`, and each invariant is a fact about these writes.
-/

namespace Sys2Proof.Machine

/-- A step keeps a property if the environment's action, a status and every command that runs keep it. -/
theorem step_keeps {P : State → Prop} {s t : State} (h : step s = .next t) (henv : envStep s = .next t → P t)
    (hstatus : ∀ c, P (s.accept.withStatus c)) (hexec : ∀ i, exec i s.accept = .next t → P t) : P t := by
  rcases step_next h with ⟨-, h⟩ | ⟨-, i, -, h⟩ | ⟨-, rfl⟩
  · exact henv h
  · exact hexec i h
  · exact hstatus _

/-- The environment writes no table and no register but those of the port (log 1). -/
theorem envStep_keeps {s t : State} (h : envStep s = .next t) :
    t.params = s.params ∧ t.ident = s.ident ∧ t.ctrl = s.ctrl ∧ t.arp = s.arp ∧ t.rq = s.rq ∧ t.pmap = s.pmap
      ∧ t.dhcp = s.dhcp ∧ t.bufOut = s.bufOut := by
  obtain ⟨ht, -, -⟩ := envStep_next h
  rw [ht]
  exact ⟨rfl, rfl, rfl, rfl, rfl, rfl, rfl, rfl⟩

theorem exec_params {i : Instr} {s t : State} (h : exec i s = .next t) : t.params = s.params := by
  rw [exec_writtenBy h]
  cases i <;> rfl

theorem step_params {s t : State} (h : step s = .next t) : t.params = s.params := by
  refine step_keeps (P := fun t => t.params = s.params) h (fun h => ?_) (fun _ => rfl) fun i h =>
    exec_params (s := s.accept) h
  exact (envStep_keeps h).1

/-! ### What a command can make of the ARP table -/

/-- One write of the ARP table: nothing, ageing, a refreshed entry, or a new entry in a slot that is not static
(41_arp_cache.md R146, R150). -/
inductive ArpWrite (p : Params) (l : List ArpEntry) : List ArpEntry → Prop where
  | kept : ArpWrite p l l
  | aged : ArpWrite p l (l.map (ArpEntry.tick p))
  | refreshed (i : Nat) (e : ArpEntry) (m : MacAddr) (a : BitVec 16) :
      l[i]? = some e → ArpWrite p l (l.set i (e.refresh p m a))
  | inserted (i : Nat) (old new : ArpEntry) :
      l[i]? = some old → (old.ip = 0#32 ∨ old.age ≠ p.arpStaticAge) → (∀ e ∈ l, e.ip ≠ new.ip) →
      ArpWrite p l (l.set i new)

theorem arpUpdate_write (s : State) (ip : IpAddr) (m : MacAddr) (a : BitVec 16) :
    ArpWrite s.params s.arp (arpUpdate s ip m a).1.arp := by
  rcases arpUpdate_cases s ip m a with ⟨-, h⟩ | ⟨i, e, -, -, he, h⟩ | ⟨i, -, hno, ⟨⟨e, he, hfree⟩, -⟩, h⟩
    | ⟨i, -, hno, ⟨⟨e, he, hage, -⟩, -⟩, h⟩ | ⟨-, -, h⟩ <;> rw [h]
  · exact .kept
  · exact .refreshed i e m a he
  · exact .inserted i e ⟨ip, m, a⟩ he (.inl hfree) hno
  · exact .inserted i e ⟨ip, m, a⟩ he (.inr hage) fun f hf => (hno f hf).1
  · exact .kept

theorem arpHandleFrame_write (s : State) (f : List Byte) : ArpWrite s.params s.arp (arpHandleFrame s f).1.arp := by
  have hupdate := arpUpdate_write s (be32 f 28) (be48 f 22) 0#16
  rcases arpHandleFrame_cases s f with ⟨-, h⟩ | ⟨-, -, -, -, h⟩ | ⟨-, -, -, -, h⟩ | ⟨-, -, h⟩ <;> rw [h]
  · exact .kept
  · rw [State.sendFrame_fst]
    exact hupdate
  · rw [show (rqFlush _ _ _).1 = _ from rqFlush_frame _ _ _]
    exact hupdate
  · exact hupdate

theorem dhReceive_write (s : State) (f : List Byte) : ArpWrite s.params s.arp (dhReceive s f).1.arp := by
  rcases dhReceive_cases s f with h | h | ⟨r, -, ⟨-, -, -, h⟩ | ⟨-, -, -, l, -, h⟩ | ⟨-, -, h⟩ | ⟨-, -, -, l, -, h⟩⟩
  · rw [h]
    exact .kept
  · rw [h]
    exact .kept
  · rw [h, dhOffer]
    simp only [dhArmBackoff_arp]
    rw [show (dhSend _ _).1 = _ from dhSend_timerFrame _ _]
    exact .kept
  · rw [h, dhCommit_eq]
    exact arpUpdate_write ((dhInstall s r.opts l).afterSend _) _ _ _
  · rw [h]
    exact .kept
  · rw [h]
    exact .kept

theorem bridgeRx_write (s : State) (f : List Byte) : ArpWrite s.params s.arp (bridgeRx s f).1.arp := by
  rcases bridgeRx_cases s f with h | h | h | ⟨ip, u, q, -, -, -, hx, h⟩ <;> rw [h]
  · exact .kept
  · exact arpHandleFrame_write s f
  · exact dhReceive_write s f
  · have hin : XlInFrameOf s u := by simpa only [hx] using xlIn_frame s ((f.drop 14).take ip.tl)
    rw [show u = _ from hin]
    exact .kept

/-- A command writes the ARP table as `ArpWrite` says, or rebuilds it (`ATTACH`, `DETACH`). -/
theorem exec_arp {i : Instr} {s t : State} (h : exec i s = .next t) :
    ArpWrite s.params s.arp t.arp
      ∨ ((i = .attach ∨ i = .detach) ∧ t.arp = List.replicate s.params.arpCapacity ArpEntry.zero) := by
  have hframe := exec_writtenBy h
  rcases exec_next h with ⟨c, rfl⟩ | hran
  · exact .inl .kept
  cases i with
  | attach =>
    obtain ⟨-, rfl⟩ := hran
    exact .inr ⟨.inl rfl, rfl⟩
  | detach =>
    obtain ⟨-, rfl⟩ := hran
    exact .inr ⟨.inr rfl, by rw [← dhRelease_params s]; rfl⟩
  | tick =>
    obtain ⟨-, rfl⟩ := hran
    rw [show (dhTick _).1 = _ from dhTick_timerFrame _]
    exact .inl .aged
  | arpAge =>
    obtain ⟨-, rfl⟩ := hran
    exact .inl .aged
  | arpUpdate =>
    obtain ⟨-, rfl⟩ := hran
    exact .inl (arpUpdate_write ..)
  | arpRx =>
    obtain ⟨-, rfl⟩ := hran
    exact .inl (arpHandleFrame_write ..)
  | dhRx =>
    obtain ⟨-, rfl⟩ := hran
    exact .inl (dhReceive_write ..)
  | rx =>
    obtain ⟨-, rfl⟩ := hran
    exact .inl (bridgeRx_write ..)
  | _ =>
    rw [hframe]
    exact .inl .kept

/-! ### Tables with one entry per key -/

/-- No two entries in use of a table have the same key; an entry is in use if its key is not that of a free one. -/
def KeyUnique {α κ : Type} (key : α → κ) (free : κ) (l : List α) : Prop :=
  ∀ (i j : Nat) (e f : α), l[i]? = some e → l[j]? = some f → key e ≠ free → key e = key f → i = j

section KeyUnique

variable {α κ : Type} {key : α → κ} {free : κ} {l : List α}

theorem keyUnique_replicate (n : Nat) {e : α} (he : key e = free) : KeyUnique key free (List.replicate n e) := by
  intro i j f g hf _ huse
  rw [List.eq_of_mem_replicate (List.mem_of_getElem? hf)] at huse
  exact absurd he huse

/-- A table whose entries in use have the keys of the entries of another at the same index. -/
theorem KeyUnique.of_sameKeys {l' : List α} (h : KeyUnique key free l)
    (hsame : ∀ (i : Nat) (e' : α), l'[i]? = some e' → key e' ≠ free → ∃ e, l[i]? = some e ∧ key e = key e') :
    KeyUnique key free l' := by
  intro i j e' f' he' hf' huse heq
  obtain ⟨e, he, hke⟩ := hsame i e' he' huse
  obtain ⟨f, hf, hkf⟩ := hsame j f' hf' (heq ▸ huse)
  exact h i j e f he hf (hke ▸ huse) (hke.trans (heq.trans hkf.symm))

theorem KeyUnique.map (h : KeyUnique key free l) {g : α → α} (hg : ∀ e, key (g e) = free ∨ key (g e) = key e) :
    KeyUnique key free (l.map g) := by
  refine h.of_sameKeys fun i e' he' huse => ?_
  rw [List.getElem?_map, Option.map_eq_some_iff] at he'
  obtain ⟨e, he, rfl⟩ := he'
  exact ⟨e, he, ((hg e).resolve_left huse).symm⟩

/-- An entry is freed, or rewritten under its key. -/
theorem KeyUnique.set_same (h : KeyUnique key free l) {i : Nat} {new : α}
    (hnew : key new = free ∨ ∃ e, l[i]? = some e ∧ key e = key new) : KeyUnique key free (l.set i new) := by
  refine h.of_sameKeys fun j e' he' huse => ?_
  rw [List.getElem?_set] at he'
  split at he'
  · next hij =>
    split at he'
    · obtain rfl : new = e' := Option.some.inj he'
      exact hij ▸ hnew.resolve_left huse
    · cases he'
  · exact ⟨e', he', rfl⟩

/-- An entry takes a key that no entry has. -/
theorem KeyUnique.set_new (h : KeyUnique key free l) (i : Nat) {new : α} (hno : ∀ e ∈ l, key e ≠ key new) :
    KeyUnique key free (l.set i new) := by
  have read : ∀ (j : Nat) (f : α), (l.set i new)[j]? = some f → (j = i ∧ f = new) ∨ (l[j]? = some f ∧ key f ≠ key new) :=
    fun j f hf => by
      rw [List.getElem?_set] at hf
      split at hf
      · next hij =>
        split at hf
        · exact .inl ⟨hij.symm, (Option.some.inj hf).symm⟩
        · cases hf
      · exact .inr ⟨hf, hno f (List.mem_of_getElem? hf)⟩
  intro j k e f he hf huse heq
  rcases read j e he with ⟨rfl, rfl⟩ | ⟨he, hne⟩ <;> rcases read k f hf with ⟨rfl, rfl⟩ | ⟨hf, hnf⟩
  · rfl
  · exact absurd heq.symm hnf
  · exact absurd heq hne
  · exact h j k e f he hf huse heq

end KeyUnique

/-! ### One entry per address -/

theorem arpUnique_iff (s : State) : ArpUnique s ↔ KeyUnique ArpEntry.ip 0#32 s.arp := Iff.rfl

/-- A tick frees an entry or keeps its address. -/
theorem ArpEntry.tick_ip (p : Params) (e : ArpEntry) : (e.tick p).ip = 0#32 ∨ (e.tick p).ip = e.ip := by
  rw [ArpEntry.tick]
  split
  · split
    · exact .inl rfl
    · exact .inr rfl
  · exact .inr rfl

theorem ArpWrite.keeps_unique {p : Params} {l l' : List ArpEntry} (hw : ArpWrite p l l')
    (h : KeyUnique ArpEntry.ip 0#32 l) : KeyUnique ArpEntry.ip 0#32 l' := by
  cases hw with
  | kept => exact h
  | aged => exact h.map (ArpEntry.tick_ip p)
  | refreshed i e m a he => exact h.set_same (.inr ⟨e, he, rfl⟩)
  | inserted i old new _ _ hno => exact h.set_new i hno

/-- Settles O18: each write of the table keeps it, a rebuilt table holds no address. -/
theorem stepKeepsArpEntriesUnique : Obligations.StepKeepsArpEntriesUnique := by
  intro s t hunique h
  simp only [arpUnique_iff] at hunique ⊢
  refine step_keeps (P := fun t => KeyUnique ArpEntry.ip 0#32 t.arp) h (fun h => ?env) (fun _ => hunique) fun i h => ?exec
  case env =>
    obtain ⟨-, -, -, harp, -⟩ := envStep_keeps h
    rw [harp]
    exact hunique
  case exec =>
    rcases exec_arp h with hw | ⟨-, hzero⟩
    · exact hw.keeps_unique hunique
    · rw [hzero]
      exact keyUnique_replicate _ rfl

/-! ### Static entries -/

theorem ArpWrite.keeps_static {p : Params} {l l' : List ArpEntry} (hw : ArpWrite p l l') {i : Nat} {e : ArpEntry}
    (he : l[i]? = some e) (hip : e.ip ≠ 0#32) (hage : e.age = p.arpStaticAge) :
    ∃ m, l'[i]? = some ⟨e.ip, m, e.age⟩ := by
  have hi : i < l.length := (List.getElem?_eq_some_iff.1 he).1
  cases hw with
  | kept => exact ⟨e.linkAddr, he⟩
  | aged => exact ⟨e.linkAddr, by rw [List.getElem?_map, he, Option.map_some, ArpEntry.tick_of_static hage]⟩
  | refreshed j f m a hf =>
    by_cases hij : j = i
    · subst hij
      obtain rfl : e = f := Option.some.inj (he.symm.trans hf)
      exact ⟨m, by rw [List.getElem?_set_self hi, ArpEntry.refresh, if_pos hage]⟩
    · exact ⟨e.linkAddr, by rw [List.getElem?_set_ne hij]; exact he⟩
  | inserted j old new hold hvictim _ =>
    have hij : j ≠ i := by
      rintro rfl
      obtain rfl : e = old := Option.some.inj (he.symm.trans hold)
      exact hvictim.elim hip fun h => h hage
    exact ⟨e.linkAddr, by rw [List.getElem?_set_ne hij]; exact he⟩

/-- Settles O19: each write of the table keeps a static entry; the two commands that rebuild it are shut out. -/
theorem staticArpEntriesPersist : Obligations.StaticArpEntriesPersist := by
  intro s t i e h hcmd he hip hage
  rcases step_next h with ⟨-, h⟩ | ⟨hpending, j, hdecode, h⟩ | ⟨-, rfl⟩
  · obtain ⟨-, -, -, harp, -⟩ := envStep_keeps h
    exact ⟨e.linkAddr, by rw [harp]; exact he⟩
  · obtain ⟨hattach, hdetach⟩ := hcmd hpending
    have hopcode : s.port.cmd = encodeOpcode j := eq_encodeOpcode_of_decodeOpcode hdecode
    rcases exec_arp h with hw | ⟨rfl | rfl, -⟩
    · exact hw.keeps_static he hip hage
    · exact absurd hopcode hattach
    · exact absurd hopcode hdetach
  · exact ⟨e.linkAddr, he⟩

/-! ### What a command can make of the retry pool -/

/-- One write of the pool: nothing, a tick, slots freed, or a packet stored with a full life (42_retry_queue.md R172, R176,
R178). -/
inductive RqWrite (p : Params) (l : List RqSlot) : List RqSlot → Prop where
  | kept : RqWrite p l l
  | aged : RqWrite p l (l.map RqSlot.tick)
  | freed (g : RqSlot → Bool) : RqWrite p l (l.map fun e => if g e then RqSlot.zero else e)
  | queued (i : Nat) (b : List Byte) (d : IpAddr) : 20 ≤ b.length → b.length ≤ p.ipMaxLen → d ≠ 0#32 →
      RqWrite p l (l.set i ⟨true, b, BitVec.ofNat 16 b.length, d, p.rqLife⟩)

theorem rqEnqueue_write (s : State) (d : IpAddr) (b : List Byte) : RqWrite s.params s.rq (rqEnqueue s d b).1.rq := by
  rcases rqEnqueue_cases s d b with ⟨-, h⟩ | ⟨-, -, -, h⟩ | ⟨-, -, -, -, h⟩ | ⟨i, hmin, hmax, hhop, -, h⟩ <;> rw [h]
  · exact .kept
  · exact .kept
  · exact .kept
  · exact .queued i b _ hmin hmax hhop

theorem rqFlush_write (s : State) (ip : IpAddr) (m : MacAddr) : RqWrite s.params s.rq (rqFlush s ip m).1.rq := by
  rw [rqFlush_eq]
  exact .freed _

theorem arpHandleFrame_rqWrite (s : State) (f : List Byte) : RqWrite s.params s.rq (arpHandleFrame s f).1.rq := by
  obtain ⟨l, n, hu, -⟩ := arpUpdate_frame s (be32 f 28) (be48 f 22) 0#16
  rcases arpHandleFrame_cases s f with ⟨-, h⟩ | ⟨-, -, -, -, h⟩ | ⟨-, -, -, -, h⟩ | ⟨-, -, h⟩ <;> rw [h]
  · exact .kept
  · rw [State.sendFrame_fst, hu]
    exact .kept
  · rw [hu]
    exact rqFlush_write _ (be32 f 28) (be48 f 22)
  · rw [hu]
    exact .kept

theorem bridgeRx_rqWrite (s : State) (f : List Byte) : RqWrite s.params s.rq (bridgeRx s f).1.rq := by
  rcases bridgeRx_cases s f with h | h | h | ⟨ip, u, q, -, -, -, hx, h⟩ <;> rw [h]
  · exact .kept
  · exact arpHandleFrame_rqWrite s f
  · obtain ⟨hdh, -, -⟩ := dhReceive_frame s f
    rw [show (dhReceive s f).1 = _ from hdh]
    exact .kept
  · have hin : XlInFrameOf s u := by simpa only [hx] using xlIn_frame s ((f.drop 14).take ip.tl)
    rw [show u = _ from hin]
    exact .kept

theorem bridgeRoute_rqWrite (s : State) (q : List Byte) : RqWrite s.params s.rq (bridgeRoute s q).1.rq := by
  rcases bridgeRoute_cases s q with ⟨-, h⟩ | ⟨-, ⟨m, -, h⟩ | ⟨-, h⟩⟩ <;> rw [h]
  · exact .kept
  · exact .kept
  · exact rqEnqueue_write s _ q

theorem bridgeTxBody_rqWrite (s : State) (b : List Byte) : RqWrite s.params s.rq (bridgeTxBody s b).1.rq := by
  rcases bridgeTxBody_cases s b with ⟨st, h⟩ | ⟨ip, -, -, -, ⟨u, st, hx, h⟩ | ⟨u, st, q, hx, h⟩⟩ <;> rw [h]
  · exact .kept
  · have hout : XlOutFrameOf s u := by simpa only [hx] using xlOut_frame s b
    rw [show u = _ from hout]
    exact .kept
  · have hout : XlOutFrameOf s u := by simpa only [hx] using xlOut_frame s b
    have hparams : u.params = s.params := by rw [show u = _ from hout]
    have hrq : u.rq = s.rq := by rw [show u = _ from hout]
    have hroute := bridgeRoute_rqWrite u q
    rwa [hparams, hrq] at hroute

/-- A command writes the pool as `RqWrite` says, or rebuilds it (`ATTACH`, `DETACH`). -/
theorem exec_rq {i : Instr} {s t : State} (h : exec i s = .next t) :
    RqWrite s.params s.rq t.rq ∨ t.rq = List.replicate s.params.rqPool RqSlot.zero := by
  have hframe := exec_writtenBy h
  rcases exec_next h with ⟨c, rfl⟩ | hran
  · exact .inl .kept
  cases i with
  | attach =>
    obtain ⟨-, rfl⟩ := hran
    exact .inr rfl
  | detach =>
    obtain ⟨-, rfl⟩ := hran
    exact .inr (by rw [← dhRelease_params s]; rfl)
  | tick =>
    obtain ⟨-, rfl⟩ := hran
    rw [show (dhTick _).1 = _ from dhTick_timerFrame _]
    exact .inl .aged
  | rqTick =>
    obtain ⟨-, rfl⟩ := hran
    exact .inl .aged
  | rx =>
    obtain ⟨-, rfl⟩ := hran
    exact .inl (bridgeRx_rqWrite ..)
  | tx =>
    obtain ⟨-, rfl⟩ := hran
    exact .inl (bridgeTxBody_rqWrite (s.count .rfnm) _)
  | arpRx =>
    obtain ⟨-, rfl⟩ := hran
    exact .inl (arpHandleFrame_rqWrite ..)
  | rqEnq =>
    obtain ⟨-, rfl⟩ := hran
    exact .inl (rqEnqueue_write ..)
  | rqFlush =>
    obtain ⟨-, rfl⟩ := hran
    exact .inl (rqFlush_write s s.port.opIp s.port.opMac)
  | _ =>
    rw [hframe]
    exact .inl .kept

theorem rqSlotOk_zero (p : Params) : RqSlotOk p RqSlot.zero := by
  rw [RqSlotOk, if_neg (by decide)]

/-- A tick frees a slot or takes one tick of a life that has more. -/
theorem RqSlotOk.tick {p : Params} {e : RqSlot} (h : RqSlotOk p e) : RqSlotOk p e.tick := by
  by_cases hused : e.used = true
  · rw [RqSlotOk, if_pos hused] at h
    obtain ⟨hlife, hmax, hlen, hmin, hcap, hhop⟩ := h
    rw [RqSlot.tick_eq fun _ => by bv_omega, if_pos hused]
    split
    · exact rqSlotOk_zero p
    · have hleft : 1 ≤ (e.life - 1#32).toNat ∧ (e.life - 1#32).toNat ≤ p.rqLife.toNat := by bv_omega
      rw [RqSlotOk, if_pos hused]
      exact ⟨hleft.1, hleft.2, hlen, hmin, hcap, hhop⟩
  · rw [RqSlot.tick, if_neg hused]
    exact h

/-- A stored packet has a full life, and a length that fits its register (10_state.md R31). -/
theorem rqSlotOk_queued {p : Params} (hlegal : p.legal = true) {b : List Byte} {d : IpAddr} (hmin : 20 ≤ b.length)
    (hmax : b.length ≤ p.ipMaxLen) (hhop : d ≠ 0#32) :
    RqSlotOk p ⟨true, b, BitVec.ofNat 16 b.length, d, p.rqLife⟩ := by
  simp only [Params.legal, Params.ticksOk, Params.framesOk, Bool.and_eq_true, decide_eq_true_eq, bne_iff_ne] at hlegal
  obtain ⟨⟨⟨-, hlife, -⟩, -⟩, -, hcap⟩ := hlegal
  rw [RqSlotOk, if_pos rfl]
  refine ⟨by bv_omega, Nat.le_refl _, ?_, hmin, hmax, hhop⟩
  rw [Params.ipMaxLen] at hmax
  rw [BitVec.toNat_ofNat]
  exact Nat.mod_eq_of_lt (by omega)

theorem RqWrite.keeps_ok {p : Params} {l l' : List RqSlot} (hw : RqWrite p l l') (hlegal : p.legal = true)
    (h : ∀ e ∈ l, RqSlotOk p e) : ∀ e ∈ l', RqSlotOk p e := by
  cases hw with
  | kept => exact h
  | aged => exact List.forall_mem_map.2 fun e he => (h e he).tick
  | freed g =>
    refine List.forall_mem_map.2 fun e he => ?_
    split
    · exact rqSlotOk_zero p
    · exact h e he
  | queued i b d hmin hmax hhop =>
    intro e he
    rcases List.mem_or_eq_of_mem_set he with he | rfl
    · exact h e he
    · exact rqSlotOk_queued hlegal hmin hmax hhop

/-- Settles O23: each write of the pool keeps every slot well formed. -/
theorem stepKeepsRetryPool : Obligations.StepKeepsRetryPool := by
  intro s t hlegal hpool h
  refine ⟨step_keeps (P := RetryPoolOk) h (fun h => ?env) (fun _ => hpool) fun i h => ?exec, step_params h⟩
  case env =>
    obtain ⟨hparams, -, -, -, hrq, -⟩ := envStep_keeps h
    rw [RetryPoolOk, hparams, hrq]
    exact hpool
  case exec =>
    rw [RetryPoolOk, exec_params h]
    rcases exec_rq h with hw | hzero
    · exact hw.keeps_ok hlegal hpool
    · rw [hzero]
      intro e he
      rw [List.eq_of_mem_replicate he]
      exact rqSlotOk_zero _

end Sys2Proof.Machine

/-!
The port map and the sizes (spec/10_state.md R34 to R37, R48). A translation opens an entry only for a flow that has none, and
every other write of the port map frees an entry or keeps its ports.
-/

namespace Sys2Proof.Machine

/-! ### One entry per port pair -/

/-- The port pair of an entry; that of a free entry is two zeros (10_state.md R35). -/
def PmapEntry.ports (e : PmapEntry) : BitVec 16 × BitVec 16 := (e.srcPort, e.dstPort)

theorem portMapUnique_iff (s : State) : PortMapUnique s ↔ KeyUnique PmapEntry.ports (0#16, 0#16) s.pmap := by
  simp only [PortMapUnique, KeyUnique, PmapEntry.ports, ne_eq, Prod.mk.injEq, and_imp]

/-- No entry in use is the flow's. -/
theorem pmapFind_none_ports {l : List PmapEntry} {sp dp : BitVec 16} (h : pmapFind l sp dp = none) :
    ∀ e ∈ l, e.ports = (sp, dp) → e.ports = (0#16, 0#16) := by
  intro e he hports
  have := (pmapFind_eq_none_iff l sp dp).1 h e he
  simp only [PmapEntry.ports, Prod.mk.injEq] at hports ⊢
  tauto

/-- A tick frees an entry or keeps its ports. -/
theorem PmapEntry.tick_ports (e : PmapEntry) : e.tick.ports = (0#16, 0#16) ∨ e.tick.ports = e.ports := by
  rw [PmapEntry.tick_eq]
  split
  · split
    · exact .inl rfl
    · exact .inr rfl
  · exact .inr rfl

section Ports

variable {l : List PmapEntry} (h : KeyUnique PmapEntry.ports (0#16, 0#16) l)
include h

theorem KeyUnique.clearFlow (i : Nat) : KeyUnique PmapEntry.ports (0#16, 0#16) (l.set i PmapEntry.zero) :=
  h.set_same (.inl rfl)

/-- A change of an entry that keeps its ports. -/
theorem KeyUnique.modify_ports (i : Nat) {g : PmapEntry → PmapEntry} (hg : ∀ e, (g e).ports = e.ports) :
    KeyUnique PmapEntry.ports (0#16, 0#16) (l.modify i g) := by
  refine h.of_sameKeys fun j e' he' _ => ?_
  rw [List.getElem?_modify, Option.map_eq_map, Option.map_eq_some_iff] at he'
  obtain ⟨e, he, rfl⟩ := he'
  refine ⟨e, he, ?_⟩
  split
  · exact (hg e).symm
  · rfl

/-- A new entry for a flow that the table does not hold. -/
theorem KeyUnique.insert_flow {new : PmapEntry} (i : Nat)
    (hno : ∀ e ∈ l, e.ports = new.ports → e.ports = (0#16, 0#16)) :
    KeyUnique PmapEntry.ports (0#16, 0#16) (l.set i new) := by
  by_cases hfree : new.ports = (0#16, 0#16)
  · exact h.set_same (.inl hfree)
  · exact h.set_new i fun e he heq => hfree (heq ▸ hno e he heq)

/-- In a table with one entry per port pair, no other entry is the flow's once the found one is cleared. -/
theorem KeyUnique.cleared_flow {i : Nat} {sp dp : BitVec 16} (hfind : pmapFind l sp dp = some i) :
    ∀ e ∈ l.set i PmapEntry.zero, e.ports = (sp, dp) → e.ports = (0#16, 0#16) := by
  obtain ⟨⟨f, hf, hsrc, hdst, hused⟩, -⟩ := (pmapFind_eq_some_iff l sp dp i).1 hfind
  have hfports : f.ports = (sp, dp) := by rw [PmapEntry.ports, hsrc, hdst]
  have hfused : f.ports ≠ (0#16, 0#16) := by simpa only [PmapEntry.ports, ne_eq, Prod.mk.injEq] using hused
  intro e he hports
  obtain ⟨j, he⟩ := List.mem_iff_getElem?.1 he
  by_cases hij : i = j
  · subst hij
    rw [List.getElem?_set_self (List.getElem?_eq_some_iff.1 hf).1] at he
    rw [← Option.some.inj he]
    rfl
  · rw [List.getElem?_set_ne hij] at he
    exact absurd (h i j f e hf he hfused (hfports.trans hports.symm)) hij

end Ports

/-- The `PORT` rewrite opens an entry for a flow that has none, or keeps the ports of its entry. -/
theorem xlOutFtp_unique {s : State} {h : IpHeader} {t : TcpHeader} {hdr seg : List Byte} {e : Option Nat}
    (hunique : KeyUnique PmapEntry.ports (0#16, 0#16) s.pmap)
    (hno : e = none → ∀ x ∈ s.pmap, x.ports = (t.sport, t.dport) → x.ports = (0#16, 0#16)) :
    KeyUnique PmapEntry.ports (0#16, 0#16) (xlOutFtp s h t hdr seg e).1.pmap := by
  rcases xlOutFtp_state s h t hdr seg e with h | h | h | ⟨i, d, -, h⟩ | ⟨i, d, hnone, -, h⟩ <;> rw [h]
  · exact hunique
  · exact hunique
  · exact hunique
  · exact hunique.modify_ports i fun _ => rfl
  · exact hunique.insert_flow i (hno hnone)

theorem armClose_unique {s : State} (hunique : KeyUnique PmapEntry.ports (0#16, 0#16) s.pmap) (i : Nat)
    (t : TcpHeader) : KeyUnique PmapEntry.ports (0#16, 0#16) (s.armClose (some i) t).pmap := by
  simp only [State.armClose]
  split
  · exact hunique.modify_ports i fun _ => rfl
  · exact hunique

theorem xlOut_unique {s : State} (hunique : KeyUnique PmapEntry.ports (0#16, 0#16) s.pmap) (b : List Byte) :
    KeyUnique PmapEntry.ports (0#16, 0#16) (xlOut s b).1.pmap := by
  rcases xlOut_cases s b with h | h | ⟨ip, t, hdr, seg, h⟩ <;> rw [h]
  · exact hunique
  · exact hunique
  · rcases xlOutTcp_cases s ip t hdr seg with ⟨hfind, h⟩ | ⟨i, hfind, ⟨-, h⟩ | ⟨-, h⟩⟩ <;> rw [h]
    · exact xlOutFtp_unique hunique fun _ => pmapFind_none_ports hfind
    · exact xlOutFtp_unique (s := s.clearFlow i) (hunique.clearFlow i) fun _ => hunique.cleared_flow hfind
    · exact xlOutFtp_unique (armClose_unique hunique i t) nofun

theorem xlIn_unique {s : State} (hunique : KeyUnique PmapEntry.ports (0#16, 0#16) s.pmap) (b : List Byte) :
    KeyUnique PmapEntry.ports (0#16, 0#16) (xlIn s b).1.pmap := by
  rcases xlIn_cases s b with h | h | ⟨t, hdr, seg, h⟩ <;> rw [h]
  · exact hunique
  · exact hunique
  · rcases xlInTcp_state s t hdr seg with h | ⟨i, h⟩ | ⟨i, h⟩ <;> rw [h]
    · exact hunique
    · exact hunique.clearFlow i
    · exact armClose_unique hunique i t

/-- What a command does to the port map: a tick, a translation outbound or inbound, or a table of free entries. -/
theorem exec_pmap {i : Instr} {s t : State} (h : exec i s = .next t) :
    t.pmap = s.pmap ∨ t.pmap = s.pmap.map PmapEntry.tick
      ∨ t.pmap = List.replicate s.params.pmapCapacity PmapEntry.zero
      ∨ (∃ u b, u.params = s.params ∧ u.pmap = s.pmap ∧ t.pmap = (xlOut u b).1.pmap) ∨ ∃ b, t.pmap = (xlIn s b).1.pmap := by
  have hframe := exec_writtenBy h
  rcases exec_next h with ⟨c, rfl⟩ | hran
  · exact .inl rfl
  cases i with
  | attach =>
    obtain ⟨-, rfl⟩ := hran
    exact .inr (.inr (.inl rfl))
  | detach =>
    obtain ⟨-, rfl⟩ := hran
    exact .inr (.inr (.inl (by rw [← dhRelease_params s]; rfl)))
  | tick =>
    obtain ⟨-, rfl⟩ := hran
    rw [show (dhTick _).1 = _ from dhTick_timerFrame _]
    exact .inr (.inl rfl)
  | pmTick =>
    obtain ⟨-, rfl⟩ := hran
    exact .inr (.inl rfl)
  | rx =>
    obtain ⟨-, rfl⟩ := hran
    rw [ended]
    rcases bridgeRx_cases s s.operandA with h | h | h | ⟨ip, u, q, -, -, -, hx, h⟩ <;> rw [h]
    · exact .inl rfl
    · rw [show (arpHandleFrame _ _).1 = _ from arpHandleFrame_frame _ _]
      exact .inl rfl
    · rw [show (dhReceive _ _).1 = _ from (dhReceive_frame _ _).1]
      exact .inl rfl
    · exact .inr (.inr (.inr (.inr ⟨_, by rw [hx]; rfl⟩)))
  | tx =>
    obtain ⟨-, rfl⟩ := hran
    rw [ended]
    rcases bridgeTxBody_cases (s.count .rfnm) s.operandA with ⟨st, h⟩ | ⟨ip, -, -, -, ⟨u, st, hx, h⟩ | ⟨u, st, q, hx, h⟩⟩
      <;> rw [h]
    · exact .inl rfl
    · exact .inr (.inr (.inr (.inl ⟨s.count .rfnm, s.operandA, rfl, rfl, by rw [hx]; rfl⟩)))
    · rw [show (bridgeRoute _ _).1 = _ from bridgeRoute_frame _ _]
      exact .inr (.inr (.inr (.inl ⟨s.count .rfnm, s.operandA, rfl, rfl, by rw [hx]; rfl⟩)))
  | xlOut =>
    obtain ⟨-, hstore⟩ := hran
    exact .inr (.inr (.inr (.inl ⟨s, s.operandA, rfl, rfl, by rw [storeOut_frame hstore]⟩)))
  | xlIn =>
    obtain ⟨-, hstore⟩ := hran
    exact .inr (.inr (.inr (.inr ⟨s.operandA, by rw [storeOut_frame hstore]⟩)))
  | _ =>
    rw [hframe]
    exact .inl rfl

/-- Settles O33: a translation opens an entry only for a flow that has none. -/
theorem stepKeepsPortMapUnique : Obligations.StepKeepsPortMapUnique := by
  intro s t hunique h
  rw [portMapUnique_iff] at hunique ⊢
  refine step_keeps (P := fun t => KeyUnique PmapEntry.ports (0#16, 0#16) t.pmap) h (fun h => ?env) (fun _ => hunique)
    fun i h => ?exec
  case env =>
    obtain ⟨-, -, -, -, -, hpmap, -⟩ := envStep_keeps h
    rw [hpmap]
    exact hunique
  case exec =>
    rcases exec_pmap h with h | h | h | ⟨u, b, -, hu, h⟩ | ⟨b, h⟩ <;> rw [h]
    · exact hunique
    · exact hunique.map PmapEntry.tick_ports
    · exact keyUnique_replicate _ rfl
    · exact xlOut_unique (s := u) (by rw [hu]; exact hunique) b
    · exact xlIn_unique (s := s.accept) hunique b

/-! ### Sizes and buffers -/

theorem ArpWrite.length {p : Params} {l l' : List ArpEntry} (hw : ArpWrite p l l') : l'.length = l.length := by
  cases hw <;> simp

theorem RqWrite.length {p : Params} {l l' : List RqSlot} (hw : RqWrite p l l') : l'.length = l.length := by
  cases hw <;> simp

theorem xlOut_pmap_length (s : State) (b : List Byte) : (xlOut s b).1.pmap.length = s.pmap.length := by
  rcases xlOut_answers s b with ⟨-, h⟩ | ⟨ip, -, ⟨l, a, b, c, h, hl⟩, -⟩
  · rw [h]
    rfl
  · rw [h]
    exact hl

theorem xlIn_pmap_length (s : State) (b : List Byte) : (xlIn s b).1.pmap.length = s.pmap.length := by
  rcases xlIn_answers s b with ⟨-, h⟩ | ⟨ip, -, ⟨l, a, b, c, h, hl⟩, -⟩
  · rw [h]
    rfl
  · rw [h]
    exact hl

/-- A command leaves `BUF_OUT`, or writes a packet that fits it from its start. -/
theorem exec_bufOut {i : Instr} {s t : State} (h : exec i s = .next t) :
    t.bufOut = s.bufOut ∨ ∃ q : List Byte, q.length ≤ s.params.bufCap ∧ t.bufOut = s.bufOut.writeBytes 0 q := by
  have hframe := exec_writtenBy h
  rcases exec_next h with ⟨c, rfl⟩ | hran
  · exact .inl rfl
  cases i with
  | xlOut =>
    obtain ⟨-, hstore⟩ := hran
    have hf := xlOut_frame s s.operandA
    rcases storeOut_next hstore with ⟨-, rfl⟩ | ⟨q, -, hq, rfl⟩
    · rw [show (xlOut _ _).1 = _ from hf]
      exact .inl rfl
    · rw [show (xlOut _ _).1 = _ from hf] at hq ⊢
      exact .inr ⟨q, hq, rfl⟩
  | xlIn =>
    obtain ⟨-, hstore⟩ := hran
    have hf := xlIn_frame s s.operandA
    rcases storeOut_next hstore with ⟨-, rfl⟩ | ⟨q, -, hq, rfl⟩
    · rw [show (xlIn _ _).1 = _ from hf]
      exact .inl rfl
    · rw [show (xlIn _ _).1 = _ from hf] at hq ⊢
      exact .inr ⟨q, hq, rfl⟩
  | _ =>
    rw [hframe]
    exact .inl rfl

/-- A buffer as 10_state.md R48 says: canonical, and inside `BUF_CAP`. -/
def BufferOk (cap : Nat) (m : Memory) : Prop := m.wf ∧ ∀ c ∈ m, c.1 < cap

theorem BufferOk.writeBytes {cap : Nat} {m : Memory} (h : BufferOk cap m) {a : Nat} {bs : List Byte}
    (hfits : a + bs.length ≤ cap) : BufferOk cap (m.writeBytes a bs) :=
  ⟨Memory.writeBytes_wf bs h.1 a, Memory.writeBytes_below bs h.2 hfits⟩

theorem shapeOk_iff (s : State) :
    ShapeOk s ↔ (s.arp.length = s.params.arpCapacity ∧ s.rq.length = s.params.rqPool
        ∧ s.pmap.length = s.params.pmapCapacity)
      ∧ BufferOk s.params.bufCap s.bufA ∧ BufferOk s.params.bufCap s.bufB ∧ BufferOk s.params.bufCap s.bufOut := by
  simp only [ShapeOk, BufferOk]
  tauto

/-- A command keeps the sizes of the tables. -/
theorem exec_lengths {i : Instr} {s t : State} (h : exec i s = .next t)
    (hsize : s.arp.length = s.params.arpCapacity ∧ s.rq.length = s.params.rqPool ∧ s.pmap.length = s.params.pmapCapacity) :
    t.arp.length = s.params.arpCapacity ∧ t.rq.length = s.params.rqPool ∧ t.pmap.length = s.params.pmapCapacity := by
  obtain ⟨harp, hrq, hpmap⟩ := hsize
  refine ⟨?_, ?_, ?_⟩
  · rcases exec_arp h with hw | ⟨-, hzero⟩
    · exact hw.length.trans harp
    · rw [hzero, List.length_replicate]
  · rcases exec_rq h with hw | hzero
    · exact hw.length.trans hrq
    · rw [hzero, List.length_replicate]
  · rcases exec_pmap h with h | h | h | ⟨u, b, -, hu, h⟩ | ⟨b, h⟩ <;> rw [h]
    · exact hpmap
    · rw [List.length_map, hpmap]
    · rw [List.length_replicate]
    · rw [xlOut_pmap_length, hu, hpmap]
    · rw [xlIn_pmap_length, hpmap]

/-- Settles O60: every write of a table keeps its size, every write of a buffer ends inside it. -/
theorem stepKeepsShape : Obligations.StepKeepsShape := by
  intro s t _ hshape h
  have hparams := step_params h
  rw [shapeOk_iff] at hshape ⊢
  rw [hparams]
  obtain ⟨hsize, hA, hB, hOut⟩ := hshape
  rcases step_next h with ⟨-, h⟩ | ⟨-, i, -, h⟩ | ⟨-, rfl⟩
  · obtain ⟨-, -, -, harp, hrq, hpmap, -, hout⟩ := envStep_keeps h
    obtain ⟨-, hbufA, hbufB⟩ := envStep_next h
    rw [harp, hrq, hpmap, hout]
    refine ⟨hsize, ?_, ?_, hOut⟩
    · rcases hbufA with h | ⟨a, bs, hfits, h⟩ <;> rw [h]
      · exact hA
      · exact hA.writeBytes hfits
    · rcases hbufB with h | ⟨a, bs, hfits, h⟩ <;> rw [h]
      · exact hB
      · exact hB.writeBytes hfits
  · have hframe := exec_writtenBy h
    have hbufs : t.bufA = s.bufA ∧ t.bufB = s.bufB := by
      rw [hframe]
      cases i <;> exact ⟨rfl, rfl⟩
    rw [hbufs.1, hbufs.2]
    refine ⟨exec_lengths (s := s.accept) h hsize, hA, hB, ?_⟩
    rcases exec_bufOut h with h | ⟨q, hq, h⟩ <;> rw [h]
    · exact hOut
    · exact hOut.writeBytes (by rw [Nat.zero_add]; exact hq)
  · exact ⟨hsize, hA, hB, hOut⟩

end Sys2Proof.Machine

/-!
The DHCP registers (spec/10_state.md R39, R41), and that every command completes (60_exceptions.md R328, R333).
-/

namespace Sys2Proof.Machine

/-! ### The DHCP registers -/

/-- `DhcpOk` reads the state, the address, `attached` and `own_ip`. -/
theorem DhcpOk.congr {s t : State} (h : DhcpOk s) (hstate : t.dhcp.state = s.dhcp.state)
    (haddr : t.dhcp.address = s.dhcp.address) (hctrl : t.ctrl.attached = s.ctrl.attached)
    (hip : t.ident.ownIp = s.ident.ownIp) : DhcpOk t := by
  rw [DhcpOk, hstate, haddr, hctrl, hip]
  exact h

theorem dhcpOk_of_off {t : State} (h : t.dhcp.state = .off) : DhcpOk t := by
  simp [DhcpOk, h, DhState.isBound]

theorem dhcpOk_of_selecting {t : State} (ha : t.ctrl.attached = true) (h : t.dhcp.state = .selecting) : DhcpOk t := by
  simp [DhcpOk, h, ha, DhState.isBound]

theorem dhcpOk_of_requesting {t : State} (ha : t.ctrl.attached = true) (h : t.dhcp.state = .requesting)
    (haddr : t.dhcp.address ≠ 0#32) : DhcpOk t := by
  simp [DhcpOk, h, ha, haddr, DhState.isBound]

theorem dhcpOk_of_isBound {t : State} (ha : t.ctrl.attached = true) (h : t.dhcp.state.isBound = true)
    (hip : t.ident.ownIp = t.dhcp.address) (haddr : t.dhcp.address ≠ 0#32) : DhcpOk t := by
  rcases (DhState.isBound_iff _).1 h with hs | hs | hs <;> simp [DhcpOk, hs, ha, hip, haddr]

/-- A send writes no register. -/
theorem dhSend_registers (s : State) (k : DhMessage) :
    (dhSend s k).1.dhcp = s.dhcp ∧ (dhSend s k).1.ctrl = s.ctrl ∧ (dhSend s k).1.ident = s.ident := by
  rcases dhSend_state s k with h | ⟨f, h⟩ <;> rw [h] <;> exact ⟨rfl, rfl, rfl⟩

theorem dhRetry_dhcpOk {s : State} (h : DhcpOk s) (k : DhMessage) : DhcpOk (dhRetry s k).1 := by
  rcases dhRetry_cases s k with ⟨-, hr⟩ | ⟨-, r, rfl, hr⟩ <;> rw [hr]
  · exact h.congr rfl rfl rfl rfl
  · obtain ⟨-, hctrl, hident⟩ := dhSend_registers (s.setDhcp { s.dhcp with retryWait := 0#16 }) k
    exact h.congr rfl rfl (congrArg Ctrl.attached hctrl) (congrArg Identity.ownIp hident)

theorem dhTickOff_dhcpOk {s : State} (ha : s.ctrl.attached = true) (h : DhcpOk s) : DhcpOk (dhTickOff s).1 := by
  rw [dhTickOff]
  split
  · obtain ⟨hdhcp, hctrl, -⟩ := dhSend_registers
      (s.setDhcp { s.dhcp with transactionId := s.port.xidIn, state := .selecting }) .discover
    exact dhcpOk_of_selecting ((congrArg Ctrl.attached hctrl).trans ha) (congrArg Dhcp.state hdhcp)
  · exact h

/-- A send that takes a bound state to another. -/
theorem dhSend_rebound {s : State} (ha : s.ctrl.attached = true) (hip : s.ident.ownIp = s.dhcp.address)
    (haddr : s.dhcp.address ≠ 0#32) {st : DhState} (hst : st.isBound = true) (k : DhMessage) :
    DhcpOk (dhSend (s.setDhcp { s.dhcp with state := st }) k).1 := by
  obtain ⟨hdhcp, hctrl, hident⟩ := dhSend_registers (s.setDhcp { s.dhcp with state := st }) k
  exact dhcpOk_of_isBound (by rw [hctrl]; exact ha) (by rw [hdhcp]; exact hst) (by rw [hdhcp, hident]; exact hip)
    (by rw [hdhcp]; exact haddr)

theorem dhTickBound_dhcpOk {s : State} (ha : s.ctrl.attached = true) (h : DhcpOk s)
    (hbound : s.dhcp.state.isBound = true) : DhcpOk (dhTickBound s).1 := by
  obtain ⟨-, -, -, -, hleased⟩ := h
  obtain ⟨hip, haddr⟩ := hleased hbound
  simp only [dhTickBound]
  repeat' split
  · exact dhcpOk_of_off rfl
  · exact dhSend_rebound (s := dhCountDown s) ha hip haddr rfl _
  · exact dhSend_rebound (s := dhCountDown s) ha hip haddr rfl _
  · exact dhcpOk_of_isBound ha hbound hip haddr

theorem dhTick_dhcpOk {s : State} (ha : s.ctrl.attached = true) (h : DhcpOk s) : DhcpOk (dhTick s).1 := by
  rw [dhTick]
  split
  case h_1 | h_2 | h_3 => exact dhTickOff_dhcpOk ha h
  case h_4 | h_5 => exact dhRetry_dhcpOk h _
  case h_6 hs | h_7 hs | h_8 hs => exact dhTickBound_dhcpOk ha h (by rw [hs]; rfl)

theorem dhReceive_dhcpOk {s : State} (ha : s.ctrl.attached = true) (h : DhcpOk s) (f : List Byte) :
    DhcpOk (dhReceive s f).1 := by
  obtain ⟨-, -, -, hoffered, hleased⟩ := id h
  rcases dhReceive_cases s f with hr | hr | ⟨r, -, ⟨-, -, haddr, hr⟩ | ⟨hs, -, -, l, -, hr⟩ | ⟨-, -, hr⟩
    | ⟨hs, -, -, l, -, hr⟩⟩
  · rw [hr]
    exact h.congr rfl rfl rfl rfl
  · rw [hr]
    exact h
  · rw [hr]
    obtain ⟨hdhcp, hctrl, -⟩ := dhSend_registers (s.setDhcp { s.dhcp with
      address := r.yiaddr, dhcpServer := (optWord r.opts 54#8).getD r.ipSrc, state := .requesting }) .requestSelecting
    exact dhcpOk_of_requesting ((congrArg Ctrl.attached hctrl).trans ha) (congrArg Dhcp.state hdhcp)
      fun hzero => haddr ((congrArg Dhcp.address hdhcp).symm.trans hzero)
  · rw [hr, dhCommit_eq]
    obtain ⟨t, n, hu, -⟩ := arpUpdate_frame ((dhInstall s r.opts l).afterSend
      (specGratuitousArp (dhInstall s r.opts l))) s.dhcp.dhcpServer r.frameSrc s.params.arpStaticAge
    rw [hu]
    exact dhcpOk_of_isBound ha rfl rfl (hoffered hs)
  · rw [hr]
    exact dhcpOk_of_off rfl
  · have hbound : s.dhcp.state.isBound = true := by rcases hs with hs | hs <;> rw [hs] <;> rfl
    obtain ⟨hip, haddr⟩ := hleased hbound
    rw [hr]
    exact dhcpOk_of_isBound ha rfl hip haddr

theorem bridgeRx_dhcpOk {s : State} (ha : s.ctrl.attached = true) (h : DhcpOk s) (f : List Byte) :
    DhcpOk (bridgeRx s f).1 := by
  rcases bridgeRx_cases s f with hr | hr | hr | ⟨ip, u, q, -, -, -, hx, hr⟩ <;> rw [hr]
  · exact h.congr rfl rfl rfl rfl
  · rw [show (arpHandleFrame _ _).1 = _ from arpHandleFrame_frame _ _]
    exact h.congr rfl rfl rfl rfl
  · exact dhReceive_dhcpOk ha h f
  · have hin : XlInFrameOf s u := by simpa only [hx] using xlIn_frame s ((f.drop 14).take ip.tl)
    rw [show u = _ from hin]
    exact h.congr rfl rfl rfl rfl

/-- Attached, `own_ip` is not written (45_bridge.md R305). -/
theorem State.writeCsr_ownIp {s : State} (ha : s.ctrl.attached = true) (v : BitVec 48) (r : Csr) :
    (s.writeCsr v r).1.ident.ownIp = s.ident.ownIp := by
  cases r with
  | ownMac | ownIp | ownMask => exact congrArg (·.1.ident.ownIp) (State.writeDetached_attached ha _)
  | _ => rfl

theorem writeCsr_dhcpOk {s : State} (h : DhcpOk s) (v : BitVec 48) (r : Csr) : DhcpOk (s.writeCsr v r).1 := by
  have hframe : CsrFrameOf s (s.writeCsr v r).1 := s.writeCsr_frame v r
  have hdhcp : (s.writeCsr v r).1.dhcp = s.dhcp := by rw [show (s.writeCsr v r).1 = _ from hframe]
  cases ha : s.ctrl.attached with
  | false =>
    obtain ⟨-, -, hoff, -⟩ := h
    exact dhcpOk_of_off ((congrArg Dhcp.state hdhcp).trans (hoff ha))
  | true =>
    refine h.congr (by rw [hdhcp]) (by rw [hdhcp]) ?_ (State.writeCsr_ownIp ha v r)
    rw [show (s.writeCsr v r).1 = _ from hframe]

/-- Settles O47: each event of the client leaves a state of its table with the registers that go with it. -/
theorem stepKeepsDhcpRegisters : Obligations.StepKeepsDhcpRegisters := by
  intro s t hok h
  refine step_keeps (P := DhcpOk) h (fun h => ?env) (fun _ => hok) fun i h => ?exec
  case env =>
    obtain ⟨-, hident, hctrl, -, -, -, hdhcp, -⟩ := envStep_keeps h
    exact hok.congr (by rw [hdhcp]) (by rw [hdhcp]) (by rw [hctrl]) (by rw [hident])
  case exec =>
    replace hok : DhcpOk s.accept := hok
    have hframe := exec_writtenBy h
    rcases exec_next h with ⟨c, rfl⟩ | hran
    · exact hok
    cases i with
    | attach =>
      obtain ⟨-, rfl⟩ := hran
      exact dhcpOk_of_off rfl
    | detach =>
      obtain ⟨-, rfl⟩ := hran
      exact dhcpOk_of_off rfl
    | tick =>
      obtain ⟨ha, rfl⟩ := hran
      exact dhTick_dhcpOk (s := arpAgeTick s.accept) ha hok
    | rx =>
      obtain ⟨ha, rfl⟩ := hran
      exact bridgeRx_dhcpOk ha hok _
    | csrWr =>
      obtain ⟨r, -, rfl⟩ := hran
      exact writeCsr_dhcpOk hok _ r
    | dhTick =>
      obtain ⟨ha, rfl⟩ := hran
      exact dhTick_dhcpOk ha hok
    | dhRx =>
      obtain ⟨ha, rfl⟩ := hran
      exact dhReceive_dhcpOk ha hok _
    | dhRel =>
      obtain ⟨-, rfl⟩ := hran
      exact dhcpOk_of_off rfl
    | _ =>
      rw [hframe]
      exact hok.congr rfl rfl rfl rfl

/-! ### Every command completes -/

theorem exists_finish (r : State × Status) : ∃ t, finish r = .next t := ⟨_, rfl⟩

theorem exists_whenAttached {s : State} {k : Result} (hk : ∃ t, k = .next t) : ∃ t, whenAttached s k = .next t := by
  cases ha : s.ctrl.attached with
  | false => exact ⟨_, whenAttached_detached ha⟩
  | true => rwa [whenAttached_attached ha]

theorem exists_withBufA {s : State} {k : List Byte → Result}
    (hk : s.port.lenA.toNat ≤ s.params.bufCap → ∃ t, k s.operandA = .next t) : ∃ t, withBufA s k = .next t := by
  rcases Nat.lt_or_ge s.params.bufCap s.port.lenA.toNat with hl | hl
  · exact ⟨_, withBufA_long hl⟩
  · rw [withBufA_fits hl]
    exact hk hl

theorem exists_withBufB {s : State} {k : List Byte → Result} (hk : ∃ t, k s.operandB = .next t) :
    ∃ t, withBufB s k = .next t := by
  rcases Nat.lt_or_ge s.params.bufCap s.port.lenB.toNat with hl | hl
  · exact ⟨_, withBufB_long hl⟩
  · rwa [withBufB_fits hl]

/-- A translated packet fits `BUF_OUT`: it is as long as the operand allows, or no longer than `IP_MAX_LEN`. -/
theorem exists_storeOut {s : State} {n : Nat} {r : XlResult} (hlegal : s.params.legal = true)
    (hn : n ≤ s.params.bufCap) (h : XlAnswers s n r) : ∃ t, storeOut r = .next t := by
  simp only [Params.legal, Params.framesOk, Bool.and_eq_true, decide_eq_true_eq] at hlegal
  obtain ⟨-, ⟨⟨⟨hcap, -⟩, -⟩, -⟩, -⟩ := hlegal
  obtain ⟨u, st, _ | q⟩ := r
  · exact ⟨_, rfl⟩
  · obtain ⟨⟨l, a, b, c, hu, -⟩, hq⟩ := h
    obtain ⟨-, -, hlen⟩ := hq q rfl
    have hparams : u.params = s.params := by rw [show u = _ from hu]
    refine ⟨_, storeOut_some ?_⟩
    rw [hparams]
    rw [Params.ipMaxLen] at hlen
    omega

theorem exists_storeOut_xlOut {s : State} (hlegal : s.params.legal = true) (hl : s.port.lenA.toNat ≤ s.params.bufCap) :
    ∃ t, storeOut (xlOut s s.operandA) = .next t := by
  rcases xlOut_answers s s.operandA with ⟨-, h⟩ | ⟨h, hd, hanswers⟩
  · rw [h]
    exact ⟨_, rfl⟩
  · obtain ⟨-, -, -, -, htl, -⟩ := ipDecode_some hd
    rw [State.length_operandA] at htl
    exact exists_storeOut hlegal (htl.trans hl) hanswers

theorem exists_storeOut_xlIn {s : State} (hlegal : s.params.legal = true) (hl : s.port.lenA.toNat ≤ s.params.bufCap) :
    ∃ t, storeOut (xlIn s s.operandA) = .next t := by
  rcases xlIn_answers s s.operandA with ⟨-, h⟩ | ⟨h, hd, hanswers⟩
  · rw [h]
    exact ⟨_, rfl⟩
  · obtain ⟨-, -, -, -, htl, -⟩ := ipDecode_some hd
    rw [State.length_operandA] at htl
    exact exists_storeOut hlegal (htl.trans hl) hanswers

/-- With legal parameters every command answers a next state. -/
theorem exec_completes {s : State} (hlegal : s.params.legal = true) (i : Instr) : ∃ t, exec i s = .next t := by
  cases i with
  | attach =>
    cases ha : s.ctrl.attached with
    | true => exact ⟨_, exec_attach_attached ha⟩
    | false => exact ⟨_, exec_attach_detached ha⟩
  | csrWr =>
    rw [exec, execCsrWr]
    split <;> exact exists_finish _
  | csrRd =>
    rw [exec, execCsrRd]
    split <;> exact exists_finish _
  | csum =>
    rw [exec, execCsum]
    exact exists_withBufA fun _ => exists_finish _
  | csadj =>
    rw [exec, execCsadj]
    exact exists_withBufA fun _ => exists_withBufB (exists_finish _)
  | arpLookup =>
    refine exists_whenAttached ?_
    split <;> exact exists_finish _
  | rx | tx | arpRx | rqEnq | dhRx => exact exists_whenAttached (exists_withBufA fun _ => exists_finish _)
  | xlOut => exact exists_whenAttached (exists_withBufA fun hl => exists_storeOut_xlOut hlegal hl)
  | xlIn => exact exists_whenAttached (exists_withBufA fun hl => exists_storeOut_xlIn hlegal hl)
  | _ => exact exists_whenAttached (exists_finish _)

/-- Settles O5: the only fault of a command is a packet too long for `BUF_OUT`, which legal parameters exclude. -/
theorem noCommandStopsTheEngine : Obligations.NoCommandStopsTheEngine := by
  intro s hlegal
  refine ⟨exec_completes hlegal, fun hpending => ?_⟩
  rcases step_pending hpending with ⟨i, -, hstep⟩ | ⟨-, hstep⟩
  · obtain ⟨t, ht⟩ := exec_completes (s := s.accept) hlegal i
    refine ⟨t, hstep.trans ht, ?_⟩
    rw [exec_writtenBy ht]
    cases i <;> rfl
  · exact ⟨_, hstep, rfl⟩

end Sys2Proof.Machine

/-!
What no command reads (spec/10_state.md R23, R42; 60_exceptions.md R326). `STATUS`, the counters and the answers of the
environment are the hidden part of a state. A relation between hidden parts that counting, sending and ending respect
(`Oblivious`) is kept by every operation, and by every command but `CSR.RD`, which reads a counter: `exec_follows`. The
statements are that theorem for three relations.
-/

namespace Sys2Proof.Machine

/-! ### The hidden part of a state -/

/-- `STATUS`, the counters and the environment's answers: what no command but `CSR.RD` reads but to write it. -/
structure Hidden where
  status : BitVec 8
  stats : Counters
  answers : List SendAnswer
  sendCount : Nat

def State.hidden (s : State) : Hidden := ⟨s.port.status, s.stats, s.answers, s.sendCount⟩

/-- The state with another hidden part. -/
def State.hide (s : State) (h : Hidden) : State :=
  { s with port := { s.port with status := h.status }, stats := h.stats, answers := h.answers, sendCount := h.sendCount }

section Hide

variable (s : State) (h : Hidden)

@[simp] theorem State.hide_params : (s.hide h).params = s.params := rfl
@[simp] theorem State.hide_ident : (s.hide h).ident = s.ident := rfl
@[simp] theorem State.hide_arp : (s.hide h).arp = s.arp := rfl
@[simp] theorem State.hide_rq : (s.hide h).rq = s.rq := rfl
@[simp] theorem State.hide_pmap : (s.hide h).pmap = s.pmap := rfl
@[simp] theorem State.hide_dhcp : (s.hide h).dhcp = s.dhcp := rfl
@[simp] theorem State.hide_port : (s.hide h).port = { s.port with status := h.status } := rfl
@[simp] theorem State.hide_hidden : s.hide s.hidden = s := rfl

end Hide

/-- The hidden part with the counters changed. -/
def Hidden.mapStats (h : Hidden) (g : Counters → Counters) : Hidden := { h with stats := g h.stats }

/-- The answer to the next send. -/
def Hidden.answer (h : Hidden) : SendAnswer :=
  match h.answers[0]? with
  | some a => a
  | none => Config.sendAnswer h.sendCount

/-- The hidden part after a send: one answer consumed, and counted if it is `err`. -/
def Hidden.afterSend (h : Hidden) : Hidden :=
  { h with
    answers := h.answers.tail, sendCount := h.sendCount + 1,
    stats := { h.stats with txFail := if h.answer = .err then h.stats.txFail + 1#32 else h.stats.txFail } }

theorem State.answerAt_hide (s : State) (h : Hidden) : (s.hide h).answerAt 0 = h.answer := rfl

theorem State.answerAt_eq_answer (s : State) : s.answerAt 0 = s.hidden.answer := rfl

theorem State.afterSend_hide (s : State) (h : Hidden) (f : List Byte) :
    (s.hide h).afterSend f = (s.afterSend f).hide h.afterSend := rfl

/-! ### Relations that the operations keep -/

/-- The counters but `stat_tx_fail`, which the answers may change. -/
def Counters.eraseFail (c : Counters) : Counters := { c with txFail := 0#32 }

/-- A change of the counters that takes nothing from `stat_tx_fail` to another counter. -/
def CountersOnly (g : Counters → Counters) : Prop :=
  ∀ c d : Counters, c.eraseFail = d.eraseFail → (g c).eraseFail = (g d).eraseFail

/-- A relation `R` between hidden parts that every operation keeps, with what it comes to (`Q`) once `STATUS` is written;
`strict` if its sends are answered alike, so that the statuses are the same too. -/
structure Oblivious (R Q : Hidden → Hidden → Prop) (strict : Prop) : Prop where
  answer : strict → ∀ {a b : Hidden}, R a b → a.answer = b.answer
  sent : ∀ {a b : Hidden}, R a b → R a.afterSend b.afterSend
  counted : ∀ {a b : Hidden} {g : Counters → Counters}, CountersOnly g → R a b → R (a.mapStats g) (b.mapStats g)
  ended : ∀ {a b : Hidden} {c d : BitVec 8}, (strict → c = d) → R a b → Q { a with status := c } { b with status := d }

theorem countersOnly_bump (k : Counter) : CountersOnly fun c => c.bump k := by
  intro c d h
  simp only [Counters.eraseFail, Counters.mk.injEq] at h
  cases k <;> simp only [Counters.bump, Counters.eraseFail, h]

/-- The counters with expired retry slots counted. -/
def Counters.expire (n : BitVec 32) (c : Counters) : Counters := { c with rqExpired := c.rqExpired + n }

/-- The counters with `rfnm_count` cleared, as `CSR.WR` does. -/
def Counters.clearRfnm (c : Counters) : Counters := { c with rfnm := 0#32 }

theorem countersOnly_expire (n : BitVec 32) : CountersOnly (Counters.expire n) := by
  intro c d h
  simp only [Counters.eraseFail, Counters.mk.injEq] at h
  simp only [Counters.expire, Counters.eraseFail, h]

theorem countersOnly_clearRfnm : CountersOnly Counters.clearRfnm := by
  intro c d h
  simp only [Counters.eraseFail, Counters.mk.injEq] at h
  simp only [Counters.clearRfnm, Counters.eraseFail, h]

theorem countersOnly_zero : CountersOnly fun _ => Counters.zero := fun _ _ _ => rfl

section Operations

variable {R Q : Hidden → Hidden → Prop} {strict : Prop}

/-- The second answer follows the first: it differs in the hidden part alone, which is related, and in the status only if
the relation is not strict. -/
def Follows (R : Hidden → Hidden → Prop) (strict : Prop) (r r' : State × Status) : Prop :=
  ∃ h, r'.1 = r.1.hide h ∧ R r.1.hidden h ∧ (strict → r'.2 = r.2)

/-- An answer that leaves the hidden part. -/
theorem Follows.same {s u u' : State} {h : Hidden} {st : Status} (hR : R s.hidden h) (hu : u' = u.hide h)
    (hs : u.hidden = s.hidden) : Follows R strict (u, st) (u', st) :=
  ⟨h, hu, hs ▸ hR, fun _ => rfl⟩

theorem Follows.ite {c : Prop} [Decidable c] {a a' b b' : State × Status} (ht : Follows R strict a a')
    (hf : Follows R strict b b') : Follows R strict (if c then a else b) (if c then a' else b') := by
  by_cases hc : c
  · rw [if_pos hc, if_pos hc]
    exact ht
  · rw [if_neg hc, if_neg hc]
    exact hf

/-- Writes of visible fields after an operation. -/
theorem Follows.map {r r' : State × Status} (hr : Follows R strict r r') {w : State → State} (g : Status → Status)
    (hw : ∀ u h, w (u.hide h) = (w u).hide h) (hh : ∀ u, (w u).hidden = u.hidden) :
    Follows R strict (w r.1, g r.2) (w r'.1, g r'.2) := by
  obtain ⟨h, hstate, hR, hstatus⟩ := hr
  exact ⟨h, by rw [hstate, hw], by rw [hh]; exact hR, fun hs => congrArg g (hstatus hs)⟩

/-- An operation on the state that another leaves. -/
theorem Follows.bind {r r' : State × Status} (hr : Follows R strict r r') {k : State → State × Status}
    (hk : ∀ u h, R u.hidden h → Follows R strict (k u) (k (u.hide h))) : Follows R strict (k r.1) (k r'.1) := by
  obtain ⟨h, hstate, hR, -⟩ := hr
  rw [hstate]
  exact hk r.1 h hR

variable (ho : Oblivious R Q strict)
include ho

theorem count_follows {s : State} {h : Hidden} (hR : R s.hidden h) (k : Counter) (st : Status) :
    Follows R strict (s.count k, st) ((s.hide h).count k, st) :=
  ⟨h.mapStats fun c => c.bump k, rfl, ho.counted (countersOnly_bump k) hR, fun _ => rfl⟩

theorem sendFrame_follows {s : State} {h : Hidden} (hR : R s.hidden h) (f : List Byte) :
    Follows R strict (s.sendFrame f) ((s.hide h).sendFrame f) := by
  rw [State.sendFrame_eq, State.sendFrame_eq, State.afterSend_hide, State.answerAt_hide, State.answerAt_eq_answer]
  exact ⟨h.afterSend, rfl, ho.sent hR, fun hs => by rw [ho.answer hs hR]⟩

/-! ### The units -/

theorem arpUpdate_follows {s : State} {h : Hidden} (hR : R s.hidden h) (ip : IpAddr) (m : MacAddr) (a : BitVec 16) :
    Follows R strict (arpUpdate s ip m a) (arpUpdate (s.hide h) ip m a) := by
  simp only [arpUpdate, State.hide_arp, State.hide_params]
  refine .ite (.same hR rfl rfl) ?_
  split
  · exact .same hR rfl rfl
  · split
    · exact .same hR rfl rfl
    · split
      · exact .same hR rfl rfl
      · exact count_follows ho hR _ _

theorem rqEnqueue_follows {s : State} {h : Hidden} (hR : R s.hidden h) (d : IpAddr) (b : List Byte) :
    Follows R strict (rqEnqueue s d b) (rqEnqueue (s.hide h) d b) := by
  have hhop : nextHop (s.hide h) d = nextHop s d := rfl
  simp only [rqEnqueue, State.hide_rq, State.hide_params, hhop]
  refine .ite (count_follows ho hR _ _) (.ite (count_follows ho hR _ _) ?_)
  split
  · exact count_follows ho hR _ _
  · next i _ =>
    let slot : RqSlot := ⟨true, b, BitVec.ofNat 16 b.length, nextHop s d, s.params.rqLife⟩
    exact (sendFrame_follows ho (s := { s with rq := s.rq.set i slot }) hR (arpRequestFrame s (nextHop s d))).map
      (w := id) (fun st => if st = .txFail then .txFail else .queued) (fun _ _ => rfl) fun _ => rfl

theorem flushSends_follows (m : MacAddr) (l : List RqSlot) : ∀ {s : State} {h : Hidden}, R s.hidden h →
    Follows R strict (flushSends m l s) (flushSends m l (s.hide h)) := by
  induction l with
  | nil => exact fun hR => .same hR rfl rfl
  | cons e l ih =>
    intro s h hR
    obtain ⟨h1, hstate1, hR1, hstatus1⟩ := sendFrame_follows ho hR (flushFrame s m e)
    obtain ⟨h2, hstate2, hR2, hstatus2⟩ := ih hR1
    have hframe : flushFrame (s.hide h) m e = flushFrame s m e := rfl
    simp only [flushSends, hframe, hstate1]
    exact ⟨h2, hstate2, hR2, fun hs => by rw [hstatus1 hs, hstatus2 hs]⟩

theorem rqFlush_follows {s : State} {h : Hidden} (hR : R s.hidden h) (ip : IpAddr) (m : MacAddr) :
    Follows R strict (rqFlush s ip m) (rqFlush (s.hide h) ip m) :=
  (flushSends_follows ho m (s.rq.filter (RqSlot.awaits ip)) hR).map
    (w := fun u => { u with rq := s.rq.map fun e => if e.awaits ip then RqSlot.zero else e }) id
    (fun _ _ => rfl) fun _ => rfl

theorem arpHandleFrame_follows {s : State} {h : Hidden} (hR : R s.hidden h) (f : List Byte) :
    Follows R strict (arpHandleFrame s f) (arpHandleFrame (s.hide h) f) := by
  simp only [arpHandleFrame]
  split
  · exact count_follows ho hR _ _
  · next a _ =>
    refine (arpUpdate_follows ho hR a.spa a.sha 0#16).bind (k := fun s1 =>
      if a.oper = arpOpRequest ∧ s1.ident.ownIp ≠ 0#32 ∧ a.tpa = s1.ident.ownIp then
        s1.sendFrame (ethFrame s1.params a.sha s1.ident.ownMac etherTypeArp
          (arpBody arpOpReply s1.ident.ownMac s1.ident.ownIp a.sha a.spa))
      else if a.oper = arpOpReply ∧ s1.ident.ownIp ≠ 0#32 ∧ a.tpa = s1.ident.ownIp then rqFlush s1 a.spa a.sha
      else (s1, .ok)) fun u k hk => ?_
    exact .ite (sendFrame_follows ho hk _) (.ite (rqFlush_follows ho hk _ _) (.same hk rfl rfl))

theorem dhSend_follows {s : State} {h : Hidden} (hR : R s.hidden h) (k : DhMessage) :
    Follows R strict (dhSend s k) (dhSend (s.hide h) k) := by
  have hframe : dhMessageFrame (s.hide h) k = dhMessageFrame s k := by cases k <;> rfl
  simp only [dhSend, hframe]
  split
  · exact .same hR rfl rfl
  · exact sendFrame_follows ho hR _

theorem dhRetry_follows {s : State} {h : Hidden} (hR : R s.hidden h) (k : DhMessage) :
    Follows R strict (dhRetry s k) (dhRetry (s.hide h) k) := by
  exact .ite (.same hR rfl rfl)
    ((dhSend_follows ho (s := s.setDhcp { s.dhcp with retryWait := down s.dhcp.retryWait }) hR k).map
      (w := fun u => u.setDhcp { u.dhcp with
        retryBackoff := dhNextBackoff u.params u.dhcp.retryBackoff,
        retryWait := dhNextBackoff u.params u.dhcp.retryBackoff }) id (fun _ _ => rfl) fun _ => rfl)

theorem dhTickOff_follows {s : State} {h : Hidden} (hR : R s.hidden h) :
    Follows R strict (dhTickOff s) (dhTickOff (s.hide h)) := by
  exact .ite ((dhSend_follows ho (s := s.setDhcp { s.dhcp with transactionId := s.port.xidIn, state := .selecting }) hR
    .discover).map (w := dhArmBackoff) id (fun _ _ => rfl) fun _ => rfl) (.same hR rfl rfl)

theorem dhTickBound_follows {s : State} {h : Hidden} (hR : R s.hidden h) :
    Follows R strict (dhTickBound s) (dhTickBound (s.hide h)) := by
  exact .ite (.same hR rfl rfl) (.ite
    (dhSend_follows ho (s := (dhCountDown s).setDhcp { (dhCountDown s).dhcp with state := .renewing }) hR _) (.ite
      (dhSend_follows ho (s := (dhCountDown s).setDhcp { (dhCountDown s).dhcp with state := .rebinding }) hR _)
      (.same hR rfl rfl)))

theorem dhTick_follows {s : State} {h : Hidden} (hR : R s.hidden h) :
    Follows R strict (dhTick s) (dhTick (s.hide h)) := by
  simp only [dhTick, State.hide_dhcp]
  split
  case h_1 | h_2 | h_3 => exact dhTickOff_follows ho hR
  case h_4 | h_5 => exact dhRetry_follows ho hR _
  case h_6 | h_7 | h_8 => exact dhTickBound_follows ho hR

theorem dhCommit_follows {s : State} {h : Hidden} (hR : R s.hidden h) (r : DhReply) (lease : BitVec 32) :
    Follows R strict (dhCommit s r lease) (dhCommit (s.hide h) r lease) := by
  obtain ⟨h1, hstate1, hR1, hstatus1⟩ := sendFrame_follows ho (s := dhInstall s r.opts lease) (h := h) hR
    (gratuitousArp (dhInstall s r.opts lease))
  obtain ⟨h2, hstate2, hR2, -⟩ := arpUpdate_follows ho hR1 s.dhcp.dhcpServer r.frameSrc s.params.arpStaticAge
  have hinstall : dhInstall (s.hide h) r.opts lease = (dhInstall s r.opts lease).hide h := rfl
  have hgratuitous : gratuitousArp ((dhInstall s r.opts lease).hide h) = gratuitousArp (dhInstall s r.opts lease) := rfl
  have hserver : ((dhInstall s r.opts lease).sendFrame (gratuitousArp (dhInstall s r.opts lease))).1.dhcp.dhcpServer
      = s.dhcp.dhcpServer := by rw [State.sendFrame_fst]; rfl
  have hparams : ((dhInstall s r.opts lease).sendFrame (gratuitousArp (dhInstall s r.opts lease))).1.params
      = s.params := by rw [State.sendFrame_fst]; rfl
  simp only [dhCommit, hinstall, hgratuitous, hstate1, State.hide_dhcp, State.hide_params, hserver, hparams]
  exact ⟨h2, hstate2, hR2, hstatus1⟩

theorem dhAckWith_follows {s : State} {h : Hidden} (hR : R s.hidden h) (r : DhReply)
    {k k' : BitVec 32 → State × Status} (hk : ∀ l, Follows R strict (k l) (k' l)) :
    Follows R strict (dhAckWith s r k) (dhAckWith (s.hide h) r k') := by
  simp only [dhAckWith, dhDiscard, State.hide_dhcp]
  split
  · exact count_follows ho hR _ _
  · exact .ite (hk _) (count_follows ho hR _ _)

theorem dhReceive_follows {s : State} {h : Hidden} (hR : R s.hidden h) (f : List Byte) :
    Follows R strict (dhReceive s f) (dhReceive (s.hide h) f) := by
  have hvalid : dhValidate (s.hide h) f = dhValidate s f := dhValidate_congr rfl rfl rfl f
  have hrenew : ∀ r l, Follows R strict (dhAckRenew s r l) (dhAckRenew (s.hide h) r l) := fun _ _ => .same hR rfl rfl
  simp only [dhReceive, hvalid, dhDiscard]
  split
  · exact count_follows ho hR _ _
  · next r _ =>
    simp only [dhDispatch, State.hide_dhcp]
    split
    case h_1 =>
      have hoffer : Follows R strict (dhOffer s r) (dhOffer (s.hide h) r) :=
        (dhSend_follows ho (s := s.setDhcp { s.dhcp with
          address := r.yiaddr, dhcpServer := (optWord r.opts 54#8).getD r.ipSrc, state := .requesting }) hR
          .requestSelecting).map (w := dhArmBackoff) id (fun _ _ => rfl) fun _ => rfl
      exact .ite (.ite hoffer (count_follows ho hR _ _)) (.same hR rfl rfl)
    case h_2 =>
      exact .ite (dhAckWith_follows ho hR r (dhCommit_follows ho hR r)) (.ite (.same hR rfl rfl) (.same hR rfl rfl))
    case h_3 | h_4 => exact .ite (dhAckWith_follows ho hR r (hrenew r)) (.same hR rfl rfl)
    all_goals exact .same hR rfl rfl

theorem dhRelease_follows {s : State} {h : Hidden} (hR : R s.hidden h) :
    Follows R strict (dhRelease s) (dhRelease (s.hide h)) := by
  have released : Follows R strict (dhClear (dhSend s .release).1, (dhSend s .release).2)
      (dhClear (dhSend (s.hide h) .release).1, (dhSend (s.hide h) .release).2) :=
    (dhSend_follows ho hR .release).map id (fun _ _ => rfl) fun _ => rfl
  have body : Follows R strict (dhReleaseBody s) (dhReleaseBody (s.hide h)) := by
    simp only [dhReleaseBody, State.hide_dhcp]
    split
    case h_1 | h_2 | h_3 => exact released
    all_goals exact .same hR rfl rfl
  exact body.map (w := fun u => { u with
    dhcp := { u.dhcp with state := .off }, ctrl := { u.ctrl with dhcpWant := false } }) id (fun _ _ => rfl) fun _ => rfl

/-! ### The translator -/

/-- The second answer of a translation follows the first: the hidden parts are related, all else is equal. -/
def XlFollows (R : Hidden → Hidden → Prop) (r r' : XlResult) : Prop :=
  ∃ h, r'.1 = r.1.hide h ∧ R r.1.hidden h ∧ r'.2 = r.2

omit ho in
theorem XlFollows.same {s u u' : State} {h : Hidden} {x : Status × Option (List Byte)} (hR : R s.hidden h)
    (hu : u' = u.hide h) (hs : u.hidden = s.hidden) : XlFollows R (u, x) (u', x) :=
  ⟨h, hu, hs ▸ hR, rfl⟩

omit ho in
theorem XlFollows.ite {c : Prop} [Decidable c] {a a' b b' : XlResult} (ht : XlFollows R a a') (hf : XlFollows R b b') :
    XlFollows R (if c then a else b) (if c then a' else b') := by
  by_cases hc : c
  · rw [if_pos hc, if_pos hc]
    exact ht
  · rw [if_neg hc, if_neg hc]
    exact hf

theorem count_xlFollows {s : State} {h : Hidden} (hR : R s.hidden h) (k : Counter) (x : Status × Option (List Byte)) :
    XlFollows R (s.count k, x) ((s.hide h).count k, x) :=
  ⟨h.mapStats fun c => c.bump k, rfl, ho.counted (countersOnly_bump k) hR, rfl⟩

theorem xlOutGrow_follows {s : State} {g : Hidden} (hR : R s.hidden g) (h : IpHeader) (t : TcpHeader)
    (hdr seg : List Byte) (e : Option Nat) (y y2 : List Byte) :
    XlFollows R (xlOutGrow s h t hdr seg e y y2) (xlOutGrow (s.hide g) h t hdr seg e y y2) := by
  refine .ite (count_xlFollows ho hR _ _) ?_
  cases e with
  | some i => exact .same hR rfl rfl
  | none =>
    simp only [State.hide_pmap]
    split
    · exact count_xlFollows ho hR _ _
    · exact .same hR rfl rfl

theorem xlOutFtp_follows {s : State} {g : Hidden} (hR : R s.hidden g) (h : IpHeader) (t : TcpHeader)
    (hdr seg : List Byte) (e : Option Nat) :
    XlFollows R (xlOutFtp s h t hdr seg e) (xlOutFtp (s.hide g) h t hdr seg e) := by
  refine .ite ?_ (.same hR rfl rfl)
  split
  · exact .same hR rfl rfl
  · exact .ite (.same hR rfl rfl) (xlOutGrow_follows ho hR h t hdr seg e _ _)

omit ho in
theorem State.armClose_hide (s : State) (g : Hidden) (i : Nat) (t : TcpHeader) :
    (s.hide g).armClose (some i) t = (s.armClose (some i) t).hide g ∧ (s.armClose (some i) t).hidden = s.hidden := by
  simp only [State.armClose]
  split <;> exact ⟨rfl, rfl⟩

theorem xlOutTcp_follows {s : State} {g : Hidden} (hR : R s.hidden g) (h : IpHeader) (t : TcpHeader)
    (hdr seg : List Byte) : XlFollows R (xlOutTcp s h t hdr seg) (xlOutTcp (s.hide g) h t hdr seg) := by
  simp only [xlOutTcp, State.hide_pmap]
  split
  · exact xlOutFtp_follows ho hR h t hdr seg none
  · next i _ =>
    obtain ⟨harm, hhidden⟩ := s.armClose_hide g i t
    rw [harm]
    exact .ite (xlOutFtp_follows ho (s := s.clearFlow i) hR h t hdr seg none)
      (xlOutFtp_follows ho (hhidden ▸ hR) h t hdr _ (some i))

theorem xlOut_follows {s : State} {g : Hidden} (hR : R s.hidden g) (b : List Byte) :
    XlFollows R (xlOut s b) (xlOut (s.hide g) b) := by
  simp only [xlOut, State.hide_ident, State.hide_params]
  split
  · exact count_xlFollows ho hR _ _
  · next h _ =>
    refine .ite (.same hR rfl rfl) (.ite (.same hR rfl rfl) (.ite ?_ (.ite ?_ (.same hR rfl rfl))))
    · split <;> exact .same hR rfl rfl
    · split
      · exact .same hR rfl rfl
      · exact xlOutTcp_follows ho hR h _ _ _

omit ho in
theorem xlInTcp_follows {s : State} {g : Hidden} (hR : R s.hidden g) (t : TcpHeader) (hdr seg : List Byte) :
    XlFollows R (xlInTcp s t hdr seg) (xlInTcp (s.hide g) t hdr seg) := by
  simp only [xlInTcp, State.hide_pmap]
  split
  · exact .same hR rfl rfl
  · next i _ =>
    obtain ⟨harm, hhidden⟩ := s.armClose_hide g i t
    exact .ite (.same hR rfl rfl) (.same hR harm hhidden)

theorem xlIn_follows {s : State} {g : Hidden} (hR : R s.hidden g) (b : List Byte) :
    XlFollows R (xlIn s b) (xlIn (s.hide g) b) := by
  simp only [xlIn, State.hide_ident, State.hide_params]
  split
  · exact count_xlFollows ho hR _ _
  · refine .ite (.same hR rfl rfl) (.ite (.same hR rfl rfl) (.ite ?_ (.ite ?_ (.same hR rfl rfl))))
    · split <;> exact .same hR rfl rfl
    · split
      · exact .same hR rfl rfl
      · exact xlInTcp_follows hR _ _ _

/-! ### The bridge -/

theorem deliverIn_follows {s : State} {h : Hidden} (hR : R s.hidden h) (b : List Byte) :
    Follows R strict (deliverIn s b) (deliverIn (s.hide h) b) := by
  obtain ⟨g, hstate, hRg, hanswer⟩ := xlIn_follows ho hR b
  rcases hx : xlIn s b with ⟨u, st, q⟩
  rw [hx] at hstate hRg hanswer
  have hx' : xlIn (s.hide h) b = (u.hide g, st, q) := Prod.ext hstate hanswer
  rw [deliverIn, deliverIn, hx, hx']
  cases q <;> exact .same hRg rfl rfl

theorem bridgeRx_follows {s : State} {h : Hidden} (hR : R s.hidden h) (f : List Byte) :
    Follows R strict (bridgeRx s f) (bridgeRx (s.hide h) f) := by
  have discard : Follows R strict (rxDiscard s) (rxDiscard (s.hide h)) := count_follows ho hR _ _
  have ip : Follows R strict (bridgeRxIp s f) (bridgeRxIp (s.hide h) f) := by
    simp only [bridgeRxIp]
    split
    · exact discard
    · exact .ite (dhReceive_follows ho hR f) (.ite (deliverIn_follows ho hR _) discard)
  exact .ite discard (.ite (arpHandleFrame_follows ho hR f) (.ite ip discard))

theorem bridgeRoute_follows {s : State} {h : Hidden} (hR : R s.hidden h) (q : List Byte) :
    Follows R strict (bridgeRoute s q) (bridgeRoute (s.hide h) q) := by
  have hhop : nextHop (s.hide h) (be32 q 16) = nextHop s (be32 q 16) := rfl
  have hlookup : ∀ d, arpLookup (s.hide h) d = arpLookup s d := fun d => arpLookup_congr rfl d
  simp only [bridgeRoute, hhop, hlookup]
  refine .ite (count_follows ho hR _ _) ?_
  split
  · exact sendFrame_follows ho hR _
  · exact rqEnqueue_follows ho hR _ _

theorem bridgeTxBody_follows {s : State} {h : Hidden} (hR : R s.hidden h) (b : List Byte) :
    Follows R strict (bridgeTxBody s b) (bridgeTxBody (s.hide h) b) := by
  have drop : ∀ st, Follows R strict (txDrop s st) (txDrop (s.hide h) st) := fun st => count_follows ho hR _ st
  obtain ⟨g, hstate, hRg, hanswer⟩ := xlOut_follows ho hR b
  rcases hx : xlOut s b with ⟨u, st, q⟩
  rw [hx] at hstate hRg hanswer
  have hx' : xlOut (s.hide h) b = (u.hide g, st, q) := Prod.ext hstate hanswer
  simp only [bridgeTxBody, hx, hx']
  split
  · exact drop _
  · refine .ite (drop _) (.ite (drop _) ?_)
    cases q with
    | none => exact .same hRg rfl rfl
    | some q => exact bridgeRoute_follows ho hRg q

/-! ### Commands -/

/-- Two outcomes whose next states differ in the hidden part alone, which is related. -/
inductive Alike (Q : Hidden → Hidden → Prop) : Result → Result → Prop where
  | next {u : State} {h : Hidden} (hQ : Q u.hidden h) : Alike Q (.next u) (.next (u.hide h))
  | fault (a : Fault) : Alike Q (.fault a) (.fault a)

omit ho in
theorem Alike.ite {c : Prop} [Decidable c] {a a' b b' : Result} (ht : Alike Q a a') (hf : Alike Q b b') :
    Alike Q (if c then a else b) (if c then a' else b') := by
  by_cases hc : c
  · rw [if_pos hc, if_pos hc]
    exact ht
  · rw [if_neg hc, if_neg hc]
    exact hf

theorem finish_alike {r r' : State × Status} (hr : Follows R strict r r') : Alike Q (finish r) (finish r') := by
  obtain ⟨h, hstate, hR, hstatus⟩ := hr
  have hend : finish r' = .next ((r.1.withStatus r.2.code).hide { h with status := r'.2.code }) := by
    rw [finish_eq, hstate]
    rfl
  rw [finish_eq, hend]
  exact .next (ho.ended (fun hs => congrArg Status.code (hstatus hs).symm) hR)

theorem whenAttached_alike {s : State} {h : Hidden} (hR : R s.hidden h) {k k' : Result} (hk : Alike Q k k') :
    Alike Q (whenAttached s k) (whenAttached (s.hide h) k') :=
  .ite hk (finish_alike ho (.same (strict := strict) hR rfl rfl))

theorem withBufA_alike {s : State} {h : Hidden} (hR : R s.hidden h) {k k' : List Byte → Result}
    (hk : Alike Q (k s.operandA) (k' s.operandA)) : Alike Q (withBufA s k) (withBufA (s.hide h) k') :=
  .ite hk (finish_alike ho (.same (strict := strict) hR rfl rfl))

theorem withBufB_alike {s : State} {h : Hidden} (hR : R s.hidden h) {k k' : List Byte → Result}
    (hk : Alike Q (k s.operandB) (k' s.operandB)) : Alike Q (withBufB s k) (withBufB (s.hide h) k') :=
  .ite hk (finish_alike ho (.same (strict := strict) hR rfl rfl))

theorem storeOut_alike {r r' : XlResult} (hr : XlFollows R r r') : Alike Q (storeOut r) (storeOut r') := by
  obtain ⟨h, hstate, hR, hanswer⟩ := hr
  obtain ⟨u, st, q⟩ := r
  obtain rfl : r' = (u.hide h, st, q) := Prod.ext hstate hanswer
  cases q with
  | none => exact finish_alike ho (.same (strict := strict) hR rfl rfl)
  | some q =>
    exact .ite (finish_alike ho (.same (strict := strict) (s := u) hR rfl rfl)) (.fault _)

theorem State.writeCsr_follows {s : State} {h : Hidden} (hR : R s.hidden h) (v : BitVec 48) (r : Csr) :
    Follows R strict (s.writeCsr v r) ((s.hide h).writeCsr v r) := by
  have detached : ∀ i, Follows R strict (s.writeDetached i) ((s.hide h).writeDetached i) :=
    fun i => .ite (.same hR rfl rfl) (.same hR rfl rfl)
  cases r
  case ownMac | ownIp | ownMask => exact detached _
  case rfnmCount => exact ⟨h.mapStats Counters.clearRfnm, rfl, ho.counted countersOnly_clearRfnm hR, fun _ => rfl⟩
  all_goals exact .same hR rfl rfl

theorem execAttach_alike {s : State} {h : Hidden} (hR : R s.hidden h) :
    Alike Q (execAttach s) (execAttach (s.hide h)) :=
  .ite (finish_alike ho (.same (strict := strict) hR rfl rfl)) (finish_alike (strict := strict) ho
    ⟨h.mapStats fun _ => Counters.zero, rfl, ho.counted countersOnly_zero hR, fun _ => rfl⟩)

theorem rqTick_follows {s : State} {h : Hidden} (hR : R s.hidden h) (st : Status) :
    Follows R strict (rqTick s, st) (rqTick (s.hide h), st) :=
  ⟨h.mapStats (Counters.expire (BitVec.ofNat 32 (s.rq.countP RqSlot.expires))), rfl,
    ho.counted (countersOnly_expire _) hR, fun _ => rfl⟩

theorem execTick_alike {s : State} {h : Hidden} (hR : R s.hidden h) : Alike Q (execTick s) (execTick (s.hide h)) := by
  obtain ⟨g, hstate, hRg, hstatus⟩ := dhTick_follows ho (s := arpAgeTick s) hR
  obtain ⟨k, hexpired, hRk, -⟩ := rqTick_follows ho hRg (dhTick (arpAgeTick s)).2
  have hage : arpAgeTick (s.hide h) = (arpAgeTick s).hide h := rfl
  refine whenAttached_alike ho hR (finish_alike ho ⟨k, ?_, hRk, ?_⟩)
  · rw [hage, hstate]
    exact congrArg pmapTick hexpired
  · exact hstatus

/-- A command but `CSR.RD` follows itself, and `CSR.RD` does if the counters are the same. -/
theorem exec_alike {s : State} {h : Hidden} (hR : R s.hidden h) {i : Instr} (hread : i = .csrRd → h.stats = s.stats) :
    Alike Q (exec i s) (exec i (s.hide h)) := by
  have same : ∀ {u u' : State} {st : Status}, u' = u.hide h → u.hidden = s.hidden →
      Alike Q (finish (u, st)) (finish (u', st)) := fun hu hs => finish_alike ho (.same (strict := strict) hR hu hs)
  cases i with
  | attach => exact execAttach_alike ho hR
  | detach =>
    exact whenAttached_alike ho hR (finish_alike ho ((dhRelease_follows ho hR).map
      (w := fun u => { u.clearTables with dhcp := Dhcp.zero, ctrl := { u.ctrl with attached := false } }) id
      (fun _ _ => rfl) fun _ => rfl))
  | tick => exact execTick_alike ho hR
  | rx => exact whenAttached_alike ho hR (withBufA_alike ho hR (finish_alike ho (bridgeRx_follows ho hR _)))
  | tx =>
    exact whenAttached_alike ho hR (withBufA_alike ho hR (finish_alike ho
      (bridgeTxBody_follows ho (s := s.count .rfnm) (h := h.mapStats fun c => c.bump .rfnm)
        (ho.counted (countersOnly_bump .rfnm) hR) _)))
  | csrWr =>
    simp only [exec, execCsrWr, State.hide_port]
    split
    · exact same rfl rfl
    · exact finish_alike ho (s.writeCsr_follows ho hR _ _)
  | csrRd =>
    have hvalue : ∀ r, (s.hide h).readCsr r = s.readCsr r := by
      intro r
      cases r <;> simp only [State.readCsr, State.hide, hread rfl]
    simp only [exec, execCsrRd, State.hide_port, hvalue]
    split
    · exact same rfl rfl
    · exact same rfl rfl
  | csum =>
    simp only [exec, execCsum]
    exact withBufA_alike ho hR (same rfl rfl)
  | csadj =>
    simp only [exec, execCsadj]
    exact withBufA_alike ho hR (withBufB_alike ho hR (same rfl rfl))
  | arpLookup =>
    have hlookup : arpLookup (s.hide h) s.port.opIp = arpLookup s s.port.opIp := arpLookup_congr rfl _
    refine whenAttached_alike ho hR ?_
    simp only [State.hide_port, hlookup]
    split
    · exact same rfl rfl
    · exact same rfl rfl
  | arpUpdate => exact whenAttached_alike ho hR (finish_alike ho (arpUpdate_follows ho hR _ _ _))
  | arpAge => exact whenAttached_alike ho hR (same rfl rfl)
  | arpReq => exact whenAttached_alike ho hR (finish_alike ho (sendFrame_follows ho hR _))
  | arpRx => exact whenAttached_alike ho hR (withBufA_alike ho hR (finish_alike ho (arpHandleFrame_follows ho hR _)))
  | rqEnq => exact whenAttached_alike ho hR (withBufA_alike ho hR (finish_alike ho (rqEnqueue_follows ho hR _ _)))
  | rqTick => exact whenAttached_alike ho hR (finish_alike ho (rqTick_follows (strict := strict) ho hR _))
  | rqFlush => exact whenAttached_alike ho hR (finish_alike ho (rqFlush_follows ho hR _ _))
  | xlOut => exact whenAttached_alike ho hR (withBufA_alike ho hR (storeOut_alike ho (xlOut_follows ho hR _)))
  | xlIn => exact whenAttached_alike ho hR (withBufA_alike ho hR (storeOut_alike ho (xlIn_follows ho hR _)))
  | pmTick => exact whenAttached_alike ho hR (same rfl rfl)
  | dhTick => exact whenAttached_alike ho hR (finish_alike ho (dhTick_follows ho hR))
  | dhRx => exact whenAttached_alike ho hR (withBufA_alike ho hR (finish_alike ho (dhReceive_follows ho hR _)))
  | dhRel => exact whenAttached_alike ho hR (finish_alike ho (dhRelease_follows ho hR))

end Operations

/-- Outcomes that follow each other are equal after a function that blanks what the relation leaves open. -/
theorem Alike.mapNext_eq {Q : Hidden → Hidden → Prop} {x x' : Result} (hx : Alike Q x x') {f : State → State}
    (hf : ∀ u h, Q u.hidden h → f (u.hide h) = f u) : mapNext f x' = mapNext f x := by
  cases hx with
  | next hQ => exact congrArg Host.Outcome.next (hf _ _ hQ)
  | fault => rfl

/-! ### The three relations -/

/-- `STATUS` apart: what a command leaves there is its own. -/
theorem oblivious_status : Oblivious (fun a b => b = { a with status := b.status }) Eq True where
  answer _ _ _ h := by rw [h]; rfl
  sent h := by rw [h]; rfl
  counted _ h := by rw [h]; rfl
  ended hc h := by rw [h, hc trivial]

/-- The counters apart. -/
theorem oblivious_stats :
    Oblivious (fun a b => b = { a with stats := b.stats }) (fun a b => b = { a with stats := b.stats }) True where
  answer _ _ _ h := by rw [h]; rfl
  sent h := by rw [h]; rfl
  counted _ h := by rw [h]; rfl
  ended hc h := by rw [h, hc trivial]

/-- The answers, `stat_tx_fail` and `STATUS` apart. -/
theorem oblivious_answers : Oblivious (fun a b => b.stats.eraseFail = a.stats.eraseFail)
    (fun a b => b.stats.eraseFail = a.stats.eraseFail) False where
  answer h := h.elim
  sent h := h
  counted hg h := hg _ _ h
  ended _ h := h

theorem exec_withStatus (s : State) (i : Instr) (c : BitVec 8) : exec i (s.withStatus c) = exec i s := by
  have hsame : Alike Eq (exec i s) (exec i (s.withStatus c)) :=
    exec_alike oblivious_status (s := s) (h := { s.hidden with status := c }) rfl fun _ => rfl
  revert hsame
  generalize exec i s = x
  generalize exec i (s.withStatus c) = x'
  rintro (hQ | _)
  · rw [← hQ, State.hide_hidden]
  · rfl

/-- Settles O58: by `exec_alike` for the relation that leaves `STATUS` open and the one that leaves the counters open. -/
theorem statusAndCountersAreNeverRead : Obligations.StatusAndCountersAreNeverRead := by
  refine ⟨exec_withStatus, fun s i c hi => ?_⟩
  have halike := exec_alike oblivious_stats (s := s) (i := i) (h := { s.hidden with stats := c }) rfl fun h => absurd h hi
  refine halike.mapNext_eq ?_
  intro u h hh
  rw [hh]
  rfl

/-- Settles O59: by `exec_alike` for the relation that leaves the answers, `stat_tx_fail` and `STATUS` open. -/
theorem sendAnswersChangeOnlyFailCountAndStatus : Obligations.SendAnswersChangeOnlyFailCountAndStatus := by
  intro s i l n
  have halike := exec_alike oblivious_answers (s := s) (i := i) (h := { s.hidden with answers := l, sendCount := n }) rfl
    fun _ => rfl
  refine halike.mapNext_eq ?_
  intro u h hR
  have hstats : ({ h.stats with txFail := 0#32 } : Counters) = { u.stats with txFail := 0#32 } := hR
  simp only [State.eraseAnswers, State.hide, hstats]

/-! ### `TICK` -/

/-- A command on a state with its status written runs on the state itself. -/
theorem exec_ended (r : State × Status) (i : Instr) : exec i (ended r) = exec i r.1 := exec_withStatus r.1 i r.2.code

/-- Settles O50: none of the four commands reads the `STATUS` the one before left. -/
theorem tickIsTheFourTicksInOrder : Obligations.TickIsTheFourTicksInOrder := by
  intro s ha
  have hage : (arpAgeTick s).ctrl.attached = true := ha
  have htick : (dhTick (arpAgeTick s)).1.ctrl.attached = true := by
    rw [show _ = _ from dhTick_timerFrame (arpAgeTick s)]
    exact ha
  have hexpire : (rqTick (dhTick (arpAgeTick s)).1).ctrl.attached = true := htick
  refine ⟨_, ended (dhTick (arpAgeTick s)), (rqTick (dhTick (arpAgeTick s)).1).withStatus 0#8,
    (pmapTick (rqTick (dhTick (arpAgeTick s)).1)).withStatus 0#8, exec_arpAge_attached ha, ?_, ?_, ?_, ?_⟩
  · rw [exec_withStatus, exec_dhTick_attached hage]
  · rw [exec_ended, exec_rqTick_attached htick]
  · rw [exec_withStatus]
    exact whenAttached_attached hexpire
  · exact whenAttached_attached ha

end Sys2Proof.Machine

/-!
The remaining statements on whole operations: a received ARP frame (spec/41_arp_cache.md R154), a host packet
(45_bridge.md R298 to R301), and the DHCP client in `Off` (44_dhcp.md R250, 10_state.md R40).
-/

namespace Sys2Proof.Machine

/-! ### `ARP.RX` -/

/-- Settles O17: one clause for each end of the handler. -/
theorem arpRxLearnsThenAnswersOrFlushes : Obligations.ArpRxLearnsThenAnswersOrFlushes := by
  intro s ha hl
  obtain ⟨-, -, hrun, -, -⟩ := exec_attached_bufA ha hl
  rw [hrun]
  rcases arpHandleFrame_cases s s.operandA with
    ⟨hbad, h⟩ | ⟨hvalid, hop, hown, htarget, h⟩ | ⟨hvalid, hop, hown, htarget, h⟩ | ⟨hvalid, hother, h⟩
  · exact ⟨fun _ => by rw [h]; rfl, fun hvalid => absurd hvalid hbad⟩
  · exact ⟨fun hbad => absurd hvalid hbad, fun _ =>
      ⟨fun _ _ _ => congrArg _ ((congrArg ended h).trans (ended_sendFrame _ _)),
        fun hreply => absurd (hop.symm.trans hreply) (by decide),
        fun hno => absurd ⟨.inl hop, hown, htarget⟩ hno⟩⟩
  · exact ⟨fun hbad => absurd hvalid hbad, fun _ =>
      ⟨fun hrequest => absurd (hop.symm.trans hrequest) (by decide),
        fun _ _ _ => congrArg _ (congrArg ended h), fun hno => absurd ⟨.inr hop, hown, htarget⟩ hno⟩⟩
  · exact ⟨fun hbad => absurd hvalid hbad, fun _ =>
      ⟨fun hrequest hown htarget => absurd ⟨.inl hrequest, hown, htarget⟩ hother,
        fun hreply hown htarget => absurd ⟨.inr hreply, hown, htarget⟩ hother,
        fun _ => congrArg _ (congrArg ended h)⟩⟩

/-! ### `TX` -/

section Sendable

variable {s u : State} {b q : List Byte} {h : IpHeader} {st : Status}

/-- A packet that decodes, fits and has an address to leave from is translated; one the translation drops ends there
(45_bridge.md R298). -/
theorem bridgeTxBody_of_untranslated (hd : ipDecode b = some h) (hfits : h.tl ≤ s.params.ipMaxLen)
    (hown : s.ident.ownIp ≠ 0#32) (hx : xlOut s b = (u, st, none)) : bridgeTxBody s b = (u, st) := by
  simp only [bridgeTxBody, hd, if_neg (Nat.not_lt.2 hfits), if_neg hown, hx]

/-- What the translation answers is routed (45_bridge.md R298). -/
theorem bridgeTxBody_of_translated (hd : ipDecode b = some h) (hfits : h.tl ≤ s.params.ipMaxLen)
    (hown : s.ident.ownIp ≠ 0#32) (hx : xlOut s b = (u, st, some q)) : bridgeTxBody s b = bridgeRoute u q := by
  simp only [bridgeTxBody, hd, if_neg (Nat.not_lt.2 hfits), if_neg hown, hx]

end Sendable

/-- Settles O52: the tests of `bridge_tx` in their order, then the three ends of the routing. -/
theorem txOutcomesInOrder : Obligations.TxOutcomesInOrder := by
  intro s ha hl v dropped
  obtain ⟨-, hrun, -⟩ := exec_attached_bufA ha hl
  have hbody : bridgeTx s s.operandA = bridgeTxBody v s.operandA := rfl
  rw [hrun, hbody]
  refine ⟨fun hd => ?undecoded, fun h hd hlong => ?long, fun h hd hfits hown => ?unaddressed,
    fun h u st hd hfits hown hx => ?untranslated, fun h u st q hd hfits hown hx => ?routed⟩
  case undecoded =>
    have hdrop : bridgeTxBody v s.operandA = txDrop v .discarded := by simp only [bridgeTxBody, hd]
    rw [hdrop]
    rfl
  case long =>
    have hdrop : bridgeTxBody v s.operandA = txDrop v .discarded := by
      simp only [bridgeTxBody, hd]
      exact if_pos hlong
    rw [hdrop]
    rfl
  case unaddressed =>
    have hdrop : bridgeTxBody v s.operandA = txDrop v .noAddress := by
      simp only [bridgeTxBody, hd]
      exact (if_neg (Nat.not_lt.2 hfits)).trans (if_pos hown)
    rw [hdrop]
    rfl
  case untranslated => rw [bridgeTxBody_of_untranslated (s := v) hd hfits hown hx]
  case routed =>
    rw [bridgeTxBody_of_translated (s := v) hd hfits hown hx]
    have hframe : XlOutFrameOf v u := by simpa only [hx] using xlOut_frame v s.operandA
    have hhop : nextHop u (be32 q 16) = specNextHop s (be32 q 16) := by rw [show u = _ from hframe]; rfl
    have hlookup : ∀ d, arpLookup u d = arpLookup s d := arpLookup_congr (by rw [show u = _ from hframe])
    have hip : ∀ m, specIpFrame u m q = specIpFrame s m q := fun m => by rw [show u = _ from hframe]; rfl
    rcases bridgeRoute_cases u q with ⟨hnone, hr⟩ | ⟨hsome, ⟨m, hm, hr⟩ | ⟨hmiss, hr⟩⟩
    · rw [hhop] at hnone
      exact ⟨fun _ => by rw [hr]; rfl, fun m hsome => absurd hnone hsome, fun hsome => absurd hnone hsome⟩
    · rw [hhop] at hsome hm
      rw [hlookup] at hm
      refine ⟨fun hnone => absurd hnone hsome, fun m' _ hm' => ?_, fun _ hmiss => by rw [hm] at hmiss; cases hmiss⟩
      obtain rfl : m = m' := Option.some.inj (hm.symm.trans hm')
      simp only [hr, hip, code_sendStatus]
    · rw [hhop] at hsome hmiss
      rw [hlookup] at hmiss
      refine ⟨fun hnone => absurd hnone hsome, fun m _ hm => ?_, fun _ _ => by rw [hr]⟩
      rw [hm] at hmiss
      cases hmiss

/-! ### The DHCP client in `Off` -/

/-- The tick in `Off` and in the two unused encodings (44_dhcp.md R248, R263). -/
theorem dhTick_of_idle {s : State}
    (hs : s.dhcp.state = .off ∨ s.dhcp.state = .backingOff ∨ s.dhcp.state = .unused7) : dhTick s = dhTickOff s := by
  rcases hs with hs | hs | hs <;> simp only [dhTick, hs]

/-- Settles O34: the start is one send of the DISCOVER on the new registers, then the backoff is armed. -/
theorem dhTickInOffStartsDiscovery : Obligations.DhTickInOffStartsDiscovery := by
  intro s ha hs
  rw [exec_dhTick_attached ha, dhTick_of_idle hs]
  refine ⟨fun hwant => ?_, fun hwant => ?_⟩
  · have hidle : dhTickOff s = (s, .ok) := if_neg (by simp [hwant])
    rw [hidle]
    rfl
  · intro d u f
    have hstart : dhTickOff s = dhStart s := if_pos hwant
    have hsend : dhSend (s.setDhcp d) .discover = (u.afterSend f, if u.answerAt 0 = .err then .txFail else .ok) :=
      dhSend_of_frame rfl
    have hbegins : dhStart s = (dhArmBackoff (dhSend (s.setDhcp d) .discover).1, (dhSend (s.setDhcp d) .discover).2) :=
      rfl
    rw [hstart, hbegins, hsend]
    simp only [ended, code_sendStatus]
    rfl

/-- In `Off` the tick emits nothing, or enters `Selecting` with one frame. -/
theorem dhTick_emits_of_off {s : State} (hs : s.dhcp.state = .off) :
    (dhTick s).1.events = s.events
      ∨ ((dhTick s).1.dhcp.state = .selecting ∧ ∃ f, (dhTick s).1.events = s.events ++ [.send f]) := by
  cases hwant : s.ctrl.dhcpWant with
  | false =>
    have hidle : dhTickOff s = (s, .ok) := if_neg (by simp [hwant])
    rw [dhTick_of_idle (.inl hs), hidle]
    exact .inl rfl
  | true =>
    obtain ⟨hselecting, -, -⟩ := dhTick_starts hs hwant
    obtain ⟨-, -, hsends⟩ := dhTick_frame s
    rcases hsends with ⟨hevents, -⟩ | ⟨f, hevents, -⟩
    · exact .inl hevents
    · exact .inr ⟨hselecting, f, hevents⟩

/-- In `Off` no datagram has a transition (44_dhcp.md R245). -/
theorem dhReceive_events_of_off {s : State} (hs : s.dhcp.state = .off) (f : List Byte) :
    (dhReceive s f).1.events = s.events := by
  cases hv : dhValidate s f with
  | none => simp only [dhReceive, hv]; rfl
  | some r => simp only [dhReceive, hv, dhDispatch, hs]

theorem dhRelease_events_of_off {s : State} (hs : s.dhcp.state = .off) : (dhRelease s).1.events = s.events := by
  simp only [dhRelease, dhReleaseBody, hs]

/-- Settles O46: only the tick leaves `Off`, and a datagram or a release finds nothing to do there. -/
theorem offNeverTransmits : Obligations.OffNeverTransmits := by
  intro s t i hs hi h
  rcases exec_next h with ⟨c, rfl⟩ | hran
  · exact .inl rfl
  rcases hi with rfl | rfl | rfl | rfl | rfl
  · obtain ⟨-, rfl⟩ := hran
    exact (dhTick_emits_of_off hs).imp_right fun hstart => ⟨.inl rfl, hstart⟩
  · obtain ⟨-, rfl⟩ := hran
    exact .inl (dhReceive_events_of_off hs s.operandA)
  · obtain ⟨-, rfl⟩ := hran
    exact .inl (dhRelease_events_of_off hs)
  · obtain ⟨-, rfl⟩ := hran
    exact (dhTick_emits_of_off (s := arpAgeTick s) hs).imp_right fun hstart => ⟨.inr rfl, hstart⟩
  · obtain ⟨-, rfl⟩ := hran
    exact .inl (dhRelease_events_of_off hs)

end Sys2Proof.Machine

/-!
The decoders (spec/30_encoding.md R92 to R94, R100) and the validation of a received datagram (44_dhcp.md R240, R244): each
test of the model against the statement's arithmetic, the option scan item by item, and the two ways to be discarded.
-/

namespace Sys2Proof.Machine

/-! ### Fields as numbers -/

/-- A field is its high part times the weight of its low part, plus the low part. -/
theorem toNat_append_eq {m n : Nat} (x : BitVec m) (y : BitVec n) : (x ++ y).toNat = 2 ^ n * x.toNat + y.toNat := by
  rw [BitVec.toNat_append, ← Nat.shiftLeft_add_eq_or_of_lt y.isLt, Nat.shiftLeft_eq, Nat.mul_comm]

theorem toNat_highNibble (x : Byte) : (x.extractLsb' 4 4).toNat = x.toNat / 16 := by
  rw [BitVec.extractLsb'_toNat, Nat.shiftRight_eq_div_pow]
  have := x.isLt
  omega

theorem toNat_lowNibble (x : Byte) : (x.extractLsb' 0 4).toNat = x.toNat % 16 := by
  rw [BitVec.extractLsb'_toNat, Nat.shiftRight_zero]

theorem ipHeaderLen_eq (b : List Byte) : ipHeaderLen b = 4 * ((byteAt b 0).toNat % 16) := by
  rw [ipHeaderLen, toNat_lowNibble]

theorem tcpHeaderLen_eq (l : List Byte) : tcpHeaderLen l = 4 * ((byteAt l 12).toNat / 16) := by
  rw [tcpHeaderLen, toNat_highNibble]

/-- The version test of a packet. -/
theorem version_eq_four_iff (b : List Byte) : (byteAt b 0).extractLsb' 4 4 = 4#4 ↔ (byteAt b 0).toNat / 16 = 4 := by
  rw [← BitVec.toNat_inj, toNat_highNibble]
  rfl

theorem IpHeader.toNat_fragOff (h : IpHeader) : h.fragOff.toNat = h.flagsFrag.toNat % 8192 := by
  rw [IpHeader.fragOff, BitVec.extractLsb'_toNat, Nat.shiftRight_zero]

theorem IpHeader.mf_iff (h : IpHeader) : h.mf = true ↔ h.flagsFrag.toNat / 8192 % 2 = 1 := by
  rw [IpHeader.mf, BitVec.getLsbD, Nat.testBit_eq_decide_div_mod_eq, decide_eq_true_iff]

/-! ### The header decoders -/

theorem ipDecode_iff_headerOf (b : List Byte) (h : IpHeader) : ipDecode b = some h ↔ Ipv4HeaderOf b h := by
  rw [ipDecode_eq_some_iff, version_eq_four_iff, ipHeaderLen_eq]
  constructor
  · rintro ⟨⟨hlen, hversion, hmin, hcap, htl, hfits⟩, rfl⟩
    exact ⟨hlen, hversion, rfl, hmin, hcap, rfl, htl, hfits, rfl, rfl, rfl, rfl, rfl, rfl, rfl, rfl⟩
  · obtain ⟨hl, tos, tl, ident, flags, ttl, proto, csum, src, dst⟩ := h
    rintro ⟨hlen, hversion, rfl, hmin, hcap, rfl, htl, hfits, rfl, rfl, rfl, rfl, rfl, rfl, rfl, rfl⟩
    exact ⟨⟨hlen, hversion, hmin, hcap, htl, hfits⟩, rfl⟩

theorem tcpDecode_iff_headerOf (l : List Byte) (t : TcpHeader) : tcpDecode l = some t ↔ TcpHeaderOf l t := by
  simp only [tcpDecode, tcpHeaderLen_eq]
  constructor
  · intro h
    split at h
    · next hc =>
      obtain ⟨hlen, hmin, hcap⟩ := hc
      cases h
      exact ⟨hlen, rfl, hmin, hcap, rfl, rfl, rfl, rfl, rfl, rfl⟩
    · cases h
  · obtain ⟨sport, dport, seq, ack, hlen, flags, csum⟩ := t
    rintro ⟨hl, rfl, hmin, hcap, rfl, rfl, rfl, rfl, rfl, rfl⟩
    exact if_pos ⟨hl, hmin, hcap⟩

/-! ### Validation of a datagram -/

theorem dhCheckMessage_iff (s : State) (frameSrc : MacAddr) (ipSrc : IpAddr) (m : List Byte) (r : DhReply) :
    dhCheckMessage s frameSrc ipSrc m = some r
      ↔ (240 ≤ m.length ∧ byteAt m 0 = bootReply ∧ byteAt m 1 = 1#8 ∧ byteAt m 2 = 6#8 ∧ be48 m 28 = s.ident.ownMac
          ∧ be32 m 4 = s.dhcp.transactionId ∧ slice m 236 240 = dhcpCookie)
        ∧ optsParse m.length (m.drop 240) = some r.opts ∧ optByte r.opts 53#8 = some r.msgType
        ∧ r.frameSrc = frameSrc ∧ r.ipSrc = ipSrc ∧ r.yiaddr = be32 m 16 := by
  simp only [dhCheckMessage]
  constructor
  · intro h
    split at h
    · next htests =>
      split at h
      · cases h
      · next opts hparse =>
        obtain ⟨t, htype, rfl⟩ := Option.map_eq_some_iff.1 h
        exact ⟨htests, hparse, htype, rfl, rfl, rfl⟩
    · cases h
  · obtain ⟨src, ip, yi, opts, t⟩ := r
    rintro ⟨htests, hparse, htype, rfl, rfl, rfl⟩
    simp only at hparse htype
    rw [if_pos htests, hparse]
    simp only [htype, Option.map_some]

theorem dhCheckUdp_iff (s : State) (frameSrc : MacAddr) (h : IpHeader) (u : List Byte) (r : DhReply) :
    dhCheckUdp s frameSrc h u = some r
      ↔ 8 ≤ u.length ∧ ((be16 u 4).toNat = u.length ∧ be16 u 0 = s.params.dhcpServerPort
          ∧ be16 u 2 = s.params.dhcpClientPort ∧ udpOk h u = true)
        ∧ dhCheckMessage s frameSrc h.src (u.drop 8) = some r := by
  rw [dhCheckUdp, udpDecode_eq]
  by_cases hlen : 8 ≤ u.length
  · rw [if_pos hlen]
    simp only [hlen, true_and, Option.ite_none_right_eq_some]
  · rw [if_neg hlen]
    exact ⟨fun h => (nomatch h), fun ⟨hmin, _⟩ => absurd hmin hlen⟩

theorem udpOk_iff (h : IpHeader) (u : List Byte) :
    udpOk h u = true ↔ be16 u 6 = 0#16 ∨ checksum (pseudo h.src h.dst protoUdp u.length ++ u) = 0#16 := by
  rw [udpOk, Bool.or_eq_true, beq_iff_eq, beq_iff_eq]

theorem dhValidate_iff (s : State) (f : List Byte) (r : DhReply) :
    dhValidate s f = some r
      ↔ (14 ≤ f.length ∧ be16 f 12 = etherTypeIp) ∧ ∃ h, ipDecode (f.drop 14) = some h
        ∧ (ipHeaderOk h ((f.drop 14).take h.tl) = true ∧ h.proto = protoUdp ∧ h.fragOff = 0#13 ∧ h.mf = false)
        ∧ dhCheckUdp s (be48 f 6) h (((f.drop 14).take h.tl).drop h.hl) = some r := by
  rw [dhValidate, Option.ite_none_right_eq_some]
  refine and_congr_right fun _ => ?_
  cases hd : ipDecode (f.drop 14) with
  | none => exact ⟨fun h => (nomatch h), fun ⟨h, hh, _⟩ => (nomatch hh)⟩
  | some h => simp only [Option.some.injEq, exists_eq_left', Option.ite_none_right_eq_some]

/-- The header checksum is over the packet's first `hl` bytes, cut to its total length or not. -/
theorem ipHeaderOk_iff {b : List Byte} {h : IpHeader} (hd : ipDecode b = some h) :
    ipHeaderOk h (b.take h.tl) = true ↔ checksum (b.take h.hl) = 0#16 := by
  obtain ⟨-, -, -, hle, -⟩ := ipDecode_some hd
  rw [ipHeaderOk, List.take_take, min_eq_left hle, beq_iff_eq]

theorem dhValidate_iff_valid (s : State) (f : List Byte) (r : DhReply) :
    dhValidate s f = some r ↔ DhcpReplyValid s f r := by
  rw [dhValidate_iff]
  simp only [dhCheckUdp_iff, dhCheckMessage_iff, udpOk_iff, DhcpReplyValid]
  constructor
  · rintro ⟨⟨hlen, htype⟩, h, hd, ⟨hsum, hproto, hfrag, hmf⟩, hudp, ⟨hulen, hsport, hdport, husum⟩,
      ⟨hmin, hop, hhw, hal, hmac, hxid, hcookie⟩, hopts, hmsg, hframe, hsrc, hyi⟩
    obtain ⟨-, -, -, -, -, -, -, hfield, -⟩ := ipDecode_some hd
    exact ⟨hlen, htype, h, hd, (ipHeaderOk_iff hd).1 hsum, hproto, hfrag, hmf, hudp, hulen, hsport, hdport, husum, hmin,
      hop, hhw, hal, hmac, hxid, hcookie, hopts, hmsg, hframe, hsrc.trans hfield, hyi⟩
  · rintro ⟨hlen, htype, h, hd, hsum, hproto, hfrag, hmf, hudp, hulen, hsport, hdport, husum, hmin,
      hop, hhw, hal, hmac, hxid, hcookie, hopts, hmsg, hframe, hsrc, hyi⟩
    obtain ⟨-, -, -, -, -, -, -, hfield, -⟩ := ipDecode_some hd
    exact ⟨⟨hlen, htype⟩, h, hd, ⟨(ipHeaderOk_iff hd).2 hsum, hproto, hfrag, hmf⟩, hudp, ⟨hulen, hsport, hdport, husum⟩,
      ⟨hmin, hop, hhw, hal, hmac, hxid, hcookie⟩, hopts, hmsg, hframe, hsrc.trans hfield.symm, hyi⟩

/-! ### The option scan -/

theorem optsParse_nil (n : Nat) : optsParse n [] = some [] := by cases n <;> rfl

theorem optsParse_pad (n : Nat) (rest : List Byte) : optsParse (n + 1) (0#8 :: rest) = optsParse n rest := rfl

theorem optsParse_end (n : Nat) (rest : List Byte) : optsParse (n + 1) (255#8 :: rest) = some [] := rfl

/-- One item of the area, neither pad nor end marker (30_encoding.md R100). -/
theorem optsParse_option (fuel : Nat) {code : Byte} (hpad : code ≠ 0#8) (hend : code ≠ 255#8) (n : Byte)
    (body : List Byte) :
    optsParse (fuel + 1) (code :: n :: body)
      = if n.toNat ≤ body.length ∧ optionLengthOk code n.toNat = true then
          (optsParse fuel (body.drop n.toNat)).map ((code, body.take n.toNat) :: ·)
        else none := by
  simp only [optsParse]
  rw [if_neg hpad, if_neg hend]

theorem optsParse_truncated (fuel : Nat) {code : Byte} (hpad : code ≠ 0#8) (hend : code ≠ 255#8) :
    optsParse (fuel + 1) [code] = none := by
  simp only [optsParse]
  rw [if_neg hpad, if_neg hend]

/-- Every item takes a byte, so any fuel not below the length gives the same answer. -/
theorem optsParse_fuel (n : Nat) : ∀ {m : Nat} {area : List Byte}, area.length ≤ n → area.length ≤ m →
    optsParse n area = optsParse m area := by
  induction n with
  | zero =>
    intro m area hn _
    obtain rfl := List.length_eq_zero_iff.1 (Nat.le_zero.1 hn)
    rw [optsParse_nil, optsParse_nil]
  | succ n ih =>
    intro m area hn hm
    match area, m with
    | [], _ => rw [optsParse_nil, optsParse_nil]
    | code :: rest, m + 1 =>
      simp only [List.length_cons, Nat.add_le_add_iff_right] at hn hm
      by_cases hpad : code = 0#8
      · subst hpad
        rw [optsParse_pad, optsParse_pad]
        exact ih hn hm
      by_cases hend : code = 255#8
      · subst hend
        rw [optsParse_end, optsParse_end]
      match rest with
      | [] => rw [optsParse_truncated n hpad hend, optsParse_truncated m hpad hend]
      | k :: body =>
        simp only [List.length_cons] at hn hm
        rw [optsParse_option n hpad hend, optsParse_option m hpad hend,
          ih (m := m) (by rw [List.length_drop]; omega) (by rw [List.length_drop]; omega)]

theorem optionLengthOk_iff (code : Byte) (n : Nat) : optionLengthOk code n = true ↔ OptionLengthLegal code n := by
  have hcode : ∀ k : Byte, code = k ↔ code.toNat = k.toNat := fun k => BitVec.toNat_inj.symm
  simp only [OptionLengthLegal, hcode, optionLengthOk]
  split
  case h_2 _ h =>
    simp [h]
    omega
  case h_1 _ h | h_3 _ h | h_4 _ h | h_5 _ h | h_6 _ h | h_7 _ h | h_8 _ h => simp [h]
  case h_9 =>
    simp only [BitVec.reduceToNat]
    tauto

theorem optFind_none {opts : List (Byte × List Byte)} {code : Byte} (h : ∀ o ∈ opts, o.1 ≠ code) :
    optFind opts code = none := by
  have hnone : opts.find? (fun o => o.1 == code) = none :=
    List.find?_eq_none.2 fun o ho => by simpa using h o ho
  rw [optFind, hnone, Option.map_none]

/-- The first occurrence of a code counts (30_encoding.md R100; log 6). -/
theorem optFind_lowest {opts : List (Byte × List Byte)} {code : Byte} {i : Nat} {data : List Byte}
    (hlow : LowestIndex opts (fun o => o.1 = code) i) (hi : opts[i]? = some (code, data)) :
    optFind opts code = some data := by
  obtain ⟨hlt, hget⟩ := List.getElem?_eq_some_iff.1 hi
  have hfind : opts.find? (fun o => o.1 == code) = some (code, data) := by
    refine List.find?_eq_some_iff_getElem.2 ⟨by simp, i, hlt, hget, fun j hj => ?_⟩
    have := hlow.2 j opts[j] hj (List.getElem?_eq_getElem (hj.trans hlt))
    simpa using this
  rw [optFind, hfind, Option.map_some]

/-- The scan of a whole area, by its first item. -/
theorem optsParse_area (code n : Byte) (body : List Byte) (hpad : code ≠ 0#8) (hend : code ≠ 255#8) :
    ((body.length < n.toNat ∨ ¬ OptionLengthLegal code n.toNat) →
        optsParse (code :: n :: body).length (code :: n :: body) = none)
      ∧ (n.toNat ≤ body.length → OptionLengthLegal code n.toNat →
          optsParse (code :: n :: body).length (code :: n :: body)
            = (optsParse (body.drop n.toNat).length (body.drop n.toNat)).map (fun l => (code, body.take n.toNat) :: l)) := by
  have hitem := optsParse_option (body.length + 1) hpad hend n body
  simp only [List.length_cons, hitem, ← optionLengthOk_iff]
  refine ⟨fun hbad => ?_, fun hfits hlegal => ?_⟩
  · refine if_neg fun ⟨hfits, hlegal⟩ => ?_
    exact hbad.elim (fun h => absurd hfits (Nat.not_le.2 h)) fun h => h hlegal
  · rw [if_pos ⟨hfits, hlegal⟩, optsParse_fuel (body.length + 1) (by rw [List.length_drop]; omega) le_rfl]

/-! ### Discards -/

/-- A datagram that no reply fits is counted and dropped (44_dhcp.md R244). -/
theorem dhReceive_of_invalid {s : State} {f : List Byte} (h : ∀ r, ¬ DhcpReplyValid s f r) :
    dhReceive s f = dhDiscard s := by
  have hnone : dhValidate s f = none :=
    Option.eq_none_iff_forall_ne_some.2 fun r hr => h r ((dhValidate_iff_valid s f r).1 hr)
  simp only [dhReceive, hnone]

/-- A valid datagram that fails a test of its transition is counted and dropped (44_dhcp.md R240, R244). -/
theorem dhDispatch_of_rejected {s : State} {r : DhReply}
    (h : (s.dhcp.state = .selecting ∧ r.msgType = 2#8 ∧ r.yiaddr = 0#32)
      ∨ ((s.dhcp.state = .requesting ∨ s.dhcp.state = .renewing ∨ s.dhcp.state = .rebinding)
          ∧ r.msgType = 5#8 ∧ (r.yiaddr ≠ s.dhcp.address ∨ optWord r.opts 51#8 = none))) :
    dhDispatch s r = dhDiscard s := by
  rcases h with ⟨hs, htype, haddr⟩ | ⟨hstate, htype, hfails⟩
  · simp only [dhDispatch, hs]
    exact (if_pos htype).trans (if_neg (not_not_intro haddr))
  · have hack : ∀ k, dhAckWith s r k = dhDiscard s := fun k => by
      cases hlease : optWord r.opts 51#8 with
      | none => simp only [dhAckWith, hlease]
      | some l =>
        have haddr : r.yiaddr ≠ s.dhcp.address := hfails.resolve_right (by simp [hlease])
        simp only [dhAckWith, hlease]
        exact if_neg haddr
    rcases hstate with hs | hs | hs
    all_goals
      simp only [dhDispatch, hs]
      exact (if_pos htype).trans (hack _)

/-- Settles O37: the decoders and the validation as equivalences, the two discards, the option scan item by item. -/
theorem dhRxDiscardsInvalidDatagrams : Obligations.DhRxDiscardsInvalidDatagrams := by
  refine ⟨dhValidate_iff_valid, ipDecode_iff_headerOf, fun h => ⟨h.toNat_fragOff, h.mf_iff⟩,
    fun b i => ⟨toNat_append_eq _ _, toNat_append_eq _ _, toNat_append_eq _ _⟩, fun s ha hl => ?discards, ?scan, ?find⟩
  case discards =>
    intro dropped
    obtain ⟨-, -, -, -, hrun⟩ := exec_attached_bufA ha hl
    rw [hrun]
    refine ⟨fun hno => ?_, fun r hvalid hrejected => ?_⟩
    · rw [dhReceive_of_invalid hno]
      rfl
    · have hreceive : dhReceive s s.operandA = dhDispatch s r := by
        simp only [dhReceive, (dhValidate_iff_valid s _ r).2 hvalid]
      rw [hreceive, dhDispatch_of_rejected hrejected]
      rfl
  case scan =>
    exact ⟨fun n area hn => optsParse_fuel n hn le_rfl, rfl, fun rest => optsParse_pad rest.length rest,
      fun rest => optsParse_end rest.length rest,
      fun code hpad hend => optsParse_truncated 0 hpad hend,
      fun code n body hpad hend => optsParse_area code n body hpad hend⟩
  case find =>
    refine fun opts code => ⟨fun h => ?_, fun i data hlow hi => ?_⟩
    · simp only [optWord, optByte, optFind_none h, Option.map_none, and_self]
    · simp only [optWord, optByte, optFind_lowest hlow hi, Option.map_some, and_self]

end Sys2Proof.Machine

/-!
The frames of the DHCP client (spec/44_dhcp.md R231 to R233, 30_encoding.md R98), layer by layer: the Ethernet frame, the IP
header, the UDP datagram, the message. Each is written out field by field and its checksum verified from scratch.
-/

namespace Sys2Proof.Machine

/-! ### The Ethernet frame -/

/-- The destination, the source and the type of a frame. -/
theorem ethFrame_fields (p : Params) (dst src : MacAddr) (t : BitVec 16) (b : List Byte) :
    be48 (ethFrame p dst src t b) 0 = dst ∧ be48 (ethFrame p dst src t b) 6 = src ∧ be16 (ethFrame p dst src t b) 12 = t :=
  ⟨be48_bytes48 dst [], be48_bytes48 src [], be16_bytes16 t []⟩

/-- After the Ethernet header come the payload and the padding. -/
theorem ethFrame_drop (p : Params) (dst src : MacAddr) (t : BitVec 16) (b : List Byte) :
    (ethFrame p dst src t b).drop 14 = b ++ zeros (p.ethMinPacket - (14 + b.length)) := by
  have hlen : (bytes48 dst ++ bytes48 src ++ bytes16 t ++ b).length = 14 + b.length := by simp; omega
  rw [ethFrame, hlen]
  rfl

/-! ### The IP header -/

/-- The IP header of a DHCP frame byte for byte, but for its checksum (44_dhcp.md R232). -/
theorem dhIpHeader_layout (p : Params) (src dst : IpAddr) (n : Nat) : ∃ a b : Byte, dhIpHeader p src dst n
    = [0x45#8, 0x00#8] ++ bytes16 (BitVec.ofNat 16 (20 + n)) ++ bytes16 0#16 ++ bytes16 0#16
      ++ [p.ipTtlDefault, protoUdp] ++ [a, b] ++ bytes32 src ++ bytes32 dst :=
  ⟨_, _, rfl⟩

/-- The IP header of a DHCP frame decodes, with the fields of 44_dhcp.md R232. -/
theorem ipDecode_dhIpHeader (p : Params) (src dst : IpAddr) {n : Nat} {body : List Byte} (hn : 20 + n ≤ 65535)
    (hbody : n ≤ body.length) :
    ∃ c, ipDecode (dhIpHeader p src dst n ++ body)
      = some ⟨20, 0#8, 20 + n, 0#16, 0#16, p.ipTtlDefault, protoUdp, c, src, dst⟩ := by
  have hlength : (dhIpHeader p src dst n ++ body).length = 20 + body.length := by
    rw [List.length_append, length_dhIpHeader]
  have htl : (BitVec.ofNat 16 (20 + n)).toNat = 20 + n := Nat.mod_eq_of_lt (by omega)
  obtain ⟨a, b, hlayout⟩ := dhIpHeader_layout p src dst n
  rw [hlayout] at hlength ⊢
  have hfirst : byteAt ([0x45#8, 0x00#8] ++ bytes16 (BitVec.ofNat 16 (20 + n)) ++ bytes16 0#16 ++ bytes16 0#16
      ++ [p.ipTtlDefault, protoUdp] ++ [a, b] ++ bytes32 src ++ bytes32 dst ++ body) 0 = 0x45#8 := rfl
  have hzero : 0#16 = be16 (bytes16 0#16 ++ []) 0 := (be16_bytes16 0#16 []).symm
  refine ⟨a ++ b, (ipDecode_iff_headerOf _ _).2 ⟨?_, ?_, ?_, le_rfl, ?_, ?_, ?_, ?_, rfl, hzero, hzero, rfl, rfl, rfl,
    (be32_bytes32 src []).symm, (be32_bytes32 dst []).symm⟩⟩
  · rw [hlength]
    exact Nat.le_add_right 20 _
  · rw [hfirst]
    rfl
  · rw [hfirst]
    rfl
  · rw [hlength]
    exact Nat.le_add_right 20 _
  · exact htl.symm.trans (congrArg BitVec.toNat (be16_bytes16 _ []).symm)
  · exact Nat.le_add_right 20 n
  · rw [hlength]
    exact Nat.add_le_add_left hbody 20

theorem checksum_dhIpHeader (p : Params) (src dst : IpAddr) (n : Nat) : checksum (dhIpHeader p src dst n) = 0#16 :=
  checksum_put16_checksum rfl (by simp) (be16_bytes16 0#16 [])

/-! ### The UDP datagram -/

theorem put16_append_right (a b : List Byte) (i : Nat) (v : BitVec 16) :
    put16 (a ++ b) (a.length + i) v = a ++ put16 b i v := by
  have hset : ∀ (l : List Byte) (k : Nat) (x : Byte), (a ++ l).set (a.length + k) x = a ++ l.set k x := fun l k x => by
    rw [List.set_append_right _ _ (Nat.le_add_right _ _), Nat.add_sub_cancel_left]
  rw [put16, put16, hset, Nat.add_assoc, hset]

/-- The datagram of a DHCP frame: ports, length, and a checksum that is not 0 and verifies (44_dhcp.md R232). -/
theorem dhDatagram_verifies (p : Params) (src dst : IpAddr) {m : List Byte} (hm : 8 + m.length ≤ 65535) :
    let u := dhDatagram p src dst m
    be16 u 0 = p.dhcpClientPort ∧ be16 u 2 = p.dhcpServerPort ∧ (be16 u 4).toNat = u.length ∧ be16 u 6 ≠ 0#16
      ∧ checksum (pseudo src dst protoUdp u.length ++ u) = 0#16 := by
  intro u
  let blank := bytes16 p.dhcpClientPort ++ bytes16 p.dhcpServerPort ++ bytes16 (BitVec.ofNat 16 (8 + m.length))
    ++ bytes16 0#16 ++ m
  let whole := pseudo src dst protoUdp blank.length ++ blank
  let c := if checksum whole = 0#16 then 0xFFFF#16 else checksum whole
  have hu : u = put16 blank 6 c := rfl
  have hblank : blank.length = 8 + m.length := by simp [blank]; omega
  have hlength : u.length = blank.length := length_put16 _ _ _
  have hmod : (BitVec.ofNat 16 (8 + m.length)).toNat = 8 + m.length := Nat.mod_eq_of_lt (by omega)
  have hc : c ≠ 0#16 := by
    simp only [c]
    split
    · decide
    · assumption
  have hsum : checksum (put16 whole 18 c) = 0#16 := by
    have hfield : be16 whole 18 = 0#16 := be16_bytes16 0#16 []
    have hfits : 18 + 2 ≤ whole.length := by simp [whole, pseudo]; omega
    simp only [c]
    split
    · next hzero => exact checksum_put16_ffff rfl hfits hfield hzero
    · exact checksum_put16_checksum rfl hfits hfield
  refine ⟨be16_bytes16 _ [], be16_bytes16 _ [], ?_, ?_, ?_⟩
  · have hfield : be16 u 4 = BitVec.ofNat 16 (8 + m.length) := be16_bytes16 _ []
    rw [hfield, hmod, hlength, hblank]
  · rw [hu, be16_put16 (by omega)]
    exact hc
  · rw [hlength, hu, ← put16_append_right]
    exact hsum

/-! ### The message -/

/-- The message byte for byte: 34 bytes of fields, 202 zero bytes, the cookie, the options, the end marker, padding
(44_dhcp.md R231). -/
theorem dhMessage_layout (s : State) (c : IpAddr) (o : List Byte) :
    ∃ n, dhMessage s c o
      = ([bootRequest, 1#8, 6#8, 0#8] ++ bytes32 s.dhcp.transactionId ++ bytes16 0#16 ++ bytes16 0#16 ++ bytes32 c
          ++ zeros 12 ++ bytes48 s.ident.ownMac) ++ (zeros 202 ++ (dhcpCookie ++ (o ++ 255#8 :: zeros n))) := by
  have hzeros : zeros 202 = zeros 10 ++ (zeros 64 ++ zeros 128) := rfl
  exact ⟨_, by simp only [dhMessage, hzeros, List.append_assoc]; rfl⟩

theorem byteAt_zeros (n i : Nat) : byteAt (zeros n) i = 0#8 := by
  simp [byteAt, zeros, List.getD_eq_getElem?_getD, List.getElem?_replicate]
  split <;> rfl

/-- The fixed fields of a message (44_dhcp.md R231). -/
theorem dhMessage_fields (s : State) (c : IpAddr) (o : List Byte) :
    let m := dhMessage s c o
    byteAt m 0 = 1#8 ∧ byteAt m 1 = 1#8 ∧ byteAt m 2 = 6#8 ∧ byteAt m 3 = 0#8
      ∧ be32 m 4 = s.dhcp.transactionId ∧ be16 m 8 = 0#16 ∧ be16 m 10 = 0#16 ∧ be32 m 12 = c
      ∧ be32 m 16 = 0#32 ∧ be32 m 20 = 0#32 ∧ be32 m 24 = 0#32 ∧ be48 m 28 = s.ident.ownMac := by
  intro m
  obtain ⟨n, hm⟩ := dhMessage_layout s c o
  rw [show m = _ from hm]
  have hblank : be32 (zeros 4) 0 = 0#32 := by decide
  exact ⟨rfl, rfl, rfl, rfl, be32_bytes32 _ [], be16_bytes16 0#16 [], be16_bytes16 0#16 [], be32_bytes32 _ [], hblank,
    hblank, hblank, be48_bytes48 _ []⟩

/-- What follows the fixed fields of a message. -/
theorem dhMessage_tail (s : State) (c : IpAddr) (o : List Byte) :
    let m := dhMessage s c o
    (∀ j, 34 ≤ j → j < 236 → byteAt m j = 0#8) ∧ slice m 236 240 = dhcpCookie ∧ slice m 240 (240 + o.length) = o
      ∧ byteAt m (240 + o.length) = 255#8 ∧ ∀ j, 241 + o.length ≤ j → byteAt m j = 0#8 := by
  intro m
  obtain ⟨n, hm⟩ := dhMessage_layout s c o
  obtain ⟨k, hoptions⟩ := dhMessage_drop_fields s c o
  have hzeros : m.drop 34 = zeros 202 ++ (dhcpCookie ++ (o ++ 255#8 :: zeros n)) := by
    rw [show m = _ from hm]
    exact List.drop_left' (by simp)
  have hcookie : m.drop 236 = dhcpCookie ++ (o ++ 255#8 :: zeros n) := by
    rw [show 236 = 34 + 202 from rfl, ← List.drop_drop, hzeros]
    exact List.drop_left' (by simp)
  have hread : ∀ j, byteAt m (240 + j) = byteAt (o ++ 255#8 :: zeros k) j := fun j => by
    rw [← hoptions, byteAt_drop]
  refine ⟨fun j hlow hhigh => ?_, ?_, ?_, ?_, fun j hj => ?_⟩
  · obtain ⟨i, rfl⟩ := Nat.exists_eq_add_of_le hlow
    rw [← byteAt_drop, hzeros, byteAt_append_left (by simp; omega), byteAt_zeros]
  · rw [slice, hcookie]
    rfl
  · rw [slice, hoptions, Nat.add_sub_cancel_left, List.take_left]
  · rw [hread, byteAt_append_right le_rfl, Nat.sub_self]
    rfl
  · obtain ⟨i, rfl⟩ := Nat.exists_eq_add_of_le hj
    have hindex : 241 + o.length + i = 240 + (o.length + (i + 1)) := by omega
    have hpast : byteAt (255#8 :: zeros k) (i + 1) = byteAt (zeros k) i := rfl
    rw [hindex, hread, byteAt_append_right (Nat.le_add_right _ _), Nat.add_sub_cancel_left, hpast, byteAt_zeros]

/-! ### The frame -/

/-- The IP packet of a DHCP frame: header, datagram, padding. -/
theorem dhFrame_drop (s : State) (dmac : MacAddr) (src dst : IpAddr) (m : List Byte) :
    (dhFrame s dmac src dst m).drop 14
      = dhIpHeader s.params src dst (8 + m.length) ++ dhDatagram s.params src dst m
          ++ zeros (s.params.ethMinPacket - (14 + (28 + m.length))) := by
  have hlen : (dhIpHeader s.params src dst (8 + m.length) ++ dhDatagram s.params src dst m).length = 28 + m.length := by
    simp
    omega
  simp only [dhFrame, ethFrame_drop, length_dhDatagram, hlen]

/-- With legal parameters a DHCP message fits its datagram and its packet. -/
theorem dhMessage_fits {s : State} (hlegal : s.params.legal = true) (c : IpAddr) (k : DhMessage) :
    28 + (dhMessage s c (dhOptions s.dhcp k)).length ≤ 65535 := by
  have hoptions := length_dhOptions_le s.dhcp k
  simp only [Params.legal, Params.framesOk, Bool.and_eq_true, decide_eq_true_eq] at hlegal
  obtain ⟨-, ⟨⟨-, -⟩, hmessage⟩, hmax⟩ := hlegal
  rw [length_dhMessage]
  omega

/-- The packet and the datagram of a DHCP frame, each verifying from scratch (44_dhcp.md R232, 30_encoding.md R98). -/
theorem dhFrame_verifies (s : State) (dmac : MacAddr) (src dst : IpAddr) {m : List Byte} (hm : 28 + m.length ≤ 65535) :
    let p := (dhFrame s dmac src dst m).drop 14
    ∃ h, ipDecode p = some h ∧ h.hl = 20 ∧ h.tl = 28 + m.length ∧ h.tos = 0#8 ∧ h.ident = 0#16 ∧ h.flagsFrag = 0#16
      ∧ h.ttl = s.params.ipTtlDefault ∧ h.proto = 17#8 ∧ h.src = src ∧ h.dst = dst ∧ checksum (p.take 20) = 0#16
      ∧ p.drop h.tl = zeros (s.params.ethMinPacket - (14 + h.tl))
      ∧ (p.take h.tl).drop 20 = dhDatagram s.params src dst m := by
  intro p
  let header := dhIpHeader s.params src dst (8 + m.length)
  let u := dhDatagram s.params src dst m
  let pad := zeros (s.params.ethMinPacket - (14 + (28 + m.length)))
  have hp : p = header ++ u ++ pad := dhFrame_drop s dmac src dst m
  have hheader : header.length = 20 := length_dhIpHeader _ _ _ _
  have hpacket : (header ++ u).length = 20 + (8 + m.length) := by
    rw [List.length_append, hheader, length_dhDatagram]
  obtain ⟨c, hdecode⟩ := ipDecode_dhIpHeader s.params src dst (n := 8 + m.length) (body := u ++ pad) (by omega)
    (by rw [List.length_append, length_dhDatagram]; omega)
  have htl : 20 + (8 + m.length) = 28 + m.length := by omega
  rw [← List.append_assoc, ← hp] at hdecode
  refine ⟨_, hdecode, rfl, htl, rfl, rfl, rfl, rfl, rfl, rfl, rfl, ?_, ?_, ?_⟩
  · rw [hp, List.append_assoc, List.take_left' hheader]
    exact checksum_dhIpHeader _ _ _ _
  · rw [hp, List.drop_left' hpacket, htl]
  · rw [hp, List.take_left' hpacket, List.drop_left' hheader]

/-- Settles O44: the frame is the three layers, each of which verifies. -/
theorem dhcpFramesVerify : Obligations.DhcpFramesVerify := by
  intro s dmac src dst ciaddr k hlegal f p opts
  have hopts : opts = dhOptions s.dhcp k := by cases k <;> rfl
  have hfits := dhMessage_fits hlegal ciaddr k
  have hlength : (dhMessage s ciaddr (dhOptions s.dhcp k)).length = _ := length_dhMessage _ _ _
  obtain ⟨hdst, hsrc, htype⟩ := ethFrame_fields s.params dmac s.ident.ownMac etherTypeIp _
  obtain ⟨h, hdecode, hhl, htl, htos, hident, hflags, httl, hproto, hhsrc, hhdst, hsum, hpad, hbody⟩ :=
    dhFrame_verifies s dmac src dst hfits
  obtain ⟨hsport, hdport, hulen, hcsum, husum⟩ := dhDatagram_verifies s.params src dst
    (m := dhMessage s ciaddr (dhOptions s.dhcp k)) (by omega)
  obtain ⟨hop, hhw, hal, hhops, hxid, hsecs, hbflags, hci, hyi, hsi, hgi, hmac⟩ := dhMessage_fields s ciaddr _
  obtain ⟨hblank, hcookie, hoptions, hend, hrest⟩ := dhMessage_tail s ciaddr (dhOptions s.dhcp k)
  refine ⟨hdst, hsrc, htype, h, hdecode, hhl, htos, hident, hflags, httl, hproto, hhsrc, hhdst, hsum, hpad, ?_⟩
  rw [hbody, hopts]
  intro u m
  have hmessage : m = dhMessage s ciaddr (dhOptions s.dhcp k) := dhDatagram_drop_header _ _ _ _
  rw [hmessage]
  exact ⟨hsport, hdport, hulen, hcsum, husum, hlength.trans (max_comm _ _), hop, hhw, hal, hhops, hxid, hsecs,
    hbflags, hci, hyi, hsi, hgi, hmac, hblank, hcookie, hoptions, hend, hrest⟩

end Sys2Proof.Machine

/-!
The grammar of the FTP `PORT` command (spec/43_translator.md R201, R202; 30_encoding.md R101): one octet and its comma, the
decimal rendering of an octet, then four of them after the keyword.
-/

namespace Sys2Proof.Machine

/-! ### One octet -/

theorem isAsciiDigit_iff (b : Byte) : isAsciiDigit b = true ↔ 0x30 ≤ b.toNat ∧ b.toNat ≤ 0x39 := by
  simp [isAsciiDigit]

theorem decimalValue_eq {d : List Byte} (hmax : d.length ≤ 3) : decimalValue d = digitsValue d := by
  match d, hmax with
  | [], _ => rfl
  | [a], _ => simp [decimalValue, digitsValue]
  | [a, b], _ => simp [decimalValue, digitsValue]
  | [a, b, c], _ =>
    simp only [decimalValue, digitsValue, List.foldl_cons, List.foldl_nil]
    omega

/-- One octet of the grammar is a digit string and its comma (43_translator.md R201). -/
theorem parseOctet_iff (y rest : List Byte) :
    parseOctet y = some rest ↔ ∃ d, y = d ++ asciiComma :: rest ∧ OctetDigits d := by
  constructor
  · intro h
    have hsplit := List.takeWhile_append_dropWhile (p := isAsciiDigit) (l := y)
    simp only [parseOctet] at h
    split at h
    · cases h
    · next c tail hdrop =>
      obtain ⟨⟨hmin, hmax, hvalue, rfl⟩, htail⟩ := Option.ite_none_right_eq_some.1 h
      obtain rfl := Option.some.inj htail
      refine ⟨y.takeWhile isAsciiDigit, by rw [← hdrop, hsplit], hmin, hmax, fun b hb => ?_, ?_⟩
      · exact (isAsciiDigit_iff b).1 (List.mem_takeWhile_imp hb)
      · rw [← decimalValue_eq hmax]
        exact hvalue
  · rintro ⟨d, rfl, hmin, hmax, hdigits, hvalue⟩
    have hall : ∀ b ∈ d, isAsciiDigit b = true := fun b hb => (isAsciiDigit_iff b).2 (hdigits b hb)
    have hcomma : ¬ isAsciiDigit asciiComma = true := by decide
    have htake : (d ++ asciiComma :: rest).takeWhile isAsciiDigit = d := by
      rw [List.takeWhile_append_of_pos hall, List.takeWhile_cons_of_neg hcomma, List.append_nil]
    have hdrop : (d ++ asciiComma :: rest).dropWhile isAsciiDigit = asciiComma :: rest := by
      rw [List.dropWhile_append_of_pos hall, List.dropWhile_cons_of_neg hcomma]
    simp only [parseOctet, htake, hdrop]
    exact if_pos ⟨hmin, hmax, (decimalValue_eq hmax).trans_le hvalue, trivial⟩

/-! ### Decimal rendering -/

theorem toNat_asciiDigit {n : Nat} (h : n < 10) : (asciiDigit n).toNat = 0x30 + n :=
  Nat.mod_eq_of_lt (by omega)

/-- An octet in decimal has 1 to 3 digits, denotes the octet and has no leading zero (30_encoding.md R101). -/
theorem isDecimalOf_dec {n : Nat} (h : n < 256) : IsDecimalOf (dec n) n := by
  have digit : ∀ {k : Nat}, k < 10 → 0x30 ≤ (asciiDigit k).toNat ∧ (asciiDigit k).toNat ≤ 0x39 := fun hk => by
    rw [toNat_asciiDigit hk]
    omega
  have nonzero : ∀ {k : Nat}, 1 ≤ k → k < 10 → asciiDigit k ≠ 0x30#8 := fun hpos hk heq => by
    have := congrArg BitVec.toNat heq
    rw [toNat_asciiDigit hk] at this
    simp at this
    omega
  by_cases h10 : n < 10
  · have hdec : dec n = [asciiDigit n] := if_pos h10
    have hvalue : digitsValue [asciiDigit n] = n := by
      rw [digitsValue, toNat_asciiDigit h10]
      omega
    rw [hdec]
    exact ⟨⟨le_rfl, by simp, by simpa using digit h10, hvalue.trans_le (by omega)⟩, hvalue, by simp⟩
  by_cases h100 : n < 100
  · have hdec : dec n = [asciiDigit (n / 10), asciiDigit (n % 10)] := (if_neg h10).trans (if_pos h100)
    have htens : n / 10 < 10 := by omega
    have hones : n % 10 < 10 := by omega
    have hvalue : digitsValue [asciiDigit (n / 10), asciiDigit (n % 10)] = n := by
      rw [digitsValue, toNat_asciiDigit htens, toNat_asciiDigit hones]
      omega
    rw [hdec]
    exact ⟨⟨by simp, by simp, by simpa using ⟨digit htens, digit hones⟩, hvalue.trans_le (by omega)⟩, hvalue,
      fun _ => nonzero (by omega) htens⟩
  · have hdec : dec n = [asciiDigit (n / 100), asciiDigit (n / 10 % 10), asciiDigit (n % 10)] :=
      (if_neg h10).trans (if_neg h100)
    have hhundreds : n / 100 < 10 := by omega
    have htens : n / 10 % 10 < 10 := by omega
    have hones : n % 10 < 10 := by omega
    have hvalue : digitsValue [asciiDigit (n / 100), asciiDigit (n / 10 % 10), asciiDigit (n % 10)] = n := by
      rw [digitsValue, toNat_asciiDigit hhundreds, toNat_asciiDigit htens, toNat_asciiDigit hones]
      omega
    rw [hdec]
    exact ⟨⟨by simp, by simp, by simpa using ⟨digit hhundreds, digit htens, digit hones⟩, hvalue.trans_le (by omega)⟩,
      hvalue, fun _ => nonzero (by omega) hhundreds⟩

/-- An octet of an address as a part of its number. -/
theorem octet_eq (ip : IpAddr) (k : Nat) : octet ip k = ip.toNat / 2 ^ (24 - 8 * k) % 256 := by
  rw [octet, BitVec.extractLsb'_toNat, Nat.shiftRight_eq_div_pow]

theorem octet_lt (ip : IpAddr) (k : Nat) : octet ip k < 256 := BitVec.isLt _

/-! ### The command -/

/-- A `PORT` command: the keyword, four digit strings with their commas, what follows (43_translator.md R201). -/
def IsPortCommand (y rest d1 d2 d3 d4 : List Byte) : Prop :=
  y = asciiPort ++ d1 ++ [asciiComma] ++ d2 ++ [asciiComma] ++ d3 ++ [asciiComma] ++ d4 ++ [asciiComma] ++ rest
    ∧ OctetDigits d1 ∧ OctetDigits d2 ∧ OctetDigits d3 ∧ OctetDigits d4

theorem parsePort_iff (y rest : List Byte) :
    parsePort y = some rest ↔ ∃ d1 d2 d3 d4, IsPortCommand y rest d1 d2 d3 d4 := by
  have hkeyword : y.take 5 = asciiPort ↔ y = asciiPort ++ y.drop 5 := by
    constructor
    · intro h
      rw [← h, List.take_append_drop]
    · intro h
      rw [h]
      rfl
  simp only [parsePort, Option.ite_none_right_eq_some, hkeyword, Option.bind_eq_bind, Option.bind_eq_some_iff,
    parseOctet_iff]
  constructor
  · rintro ⟨hy, _, ⟨_, ⟨_, ⟨d1, h1, hd1⟩, d2, rfl, hd2⟩, d3, rfl, hd3⟩, d4, rfl, hd4⟩
    exact ⟨d1, d2, d3, d4, by rw [hy, h1]; simp, hd1, hd2, hd3, hd4⟩
  · rintro ⟨d1, d2, d3, d4, rfl, hd1, hd2, hd3, hd4⟩
    exact ⟨by simp [asciiPort], d4 ++ asciiComma :: rest,
      ⟨d3 ++ asciiComma :: (d4 ++ asciiComma :: rest),
        ⟨d2 ++ asciiComma :: (d3 ++ asciiComma :: (d4 ++ asciiComma :: rest)), ⟨d1, by simp [asciiPort], hd1⟩, d2, rfl, hd2⟩,
        d3, rfl, hd3⟩, d4, rfl, hd4⟩

theorem isPortCommand_portCommand (ip : IpAddr) (rest : List Byte) :
    IsPortCommand (portCommand ip rest) rest (dec (octet ip 0)) (dec (octet ip 1)) (dec (octet ip 2))
      (dec (octet ip 3)) := by
  have hdigits : ∀ k, OctetDigits (dec (octet ip k)) := fun k => (isDecimalOf_dec (octet_lt ip k)).1
  exact ⟨rfl, hdigits 0, hdigits 1, hdigits 2, hdigits 3⟩

/-- The four digit strings take 4 to 12 bytes. -/
theorem IsPortCommand.length_bounds {y rest d1 d2 d3 d4 : List Byte} (h : IsPortCommand y rest d1 d2 d3 d4) :
    13 + rest.length ≤ y.length ∧ y.length ≤ 21 + rest.length := by
  obtain ⟨rfl, ⟨hmin1, hmax1, -⟩, ⟨hmin2, hmax2, -⟩, ⟨hmin3, hmax3, -⟩, hmin4, hmax4, -⟩ := h
  simp only [List.length_append, asciiPort, List.length_cons, List.length_nil]
  omega

/-- Settles O29: the grammar as an equivalence, and the rewritten command as a command of it. -/
theorem portCommandGrammar : Obligations.PortCommandGrammar := by
  refine ⟨parsePort_iff, fun ip rest => ⟨?_, ?_, fun y hy => ?_⟩⟩
  · have hdecimal : ∀ k, IsDecimalOf (dec (octet ip k)) (ip.toNat / 2 ^ (24 - 8 * k) % 256) := fun k =>
      octet_eq ip k ▸ isDecimalOf_dec (octet_lt ip k)
    have htop : ip.toNat / 2 ^ (24 - 8 * 0) % 256 = ip.toNat / 0x1000000 := by
      have := ip.isLt
      omega
    have hlow : ip.toNat / 2 ^ (24 - 8 * 3) % 256 = ip.toNat % 256 := by omega
    exact ⟨_, _, _, _, rfl, htop ▸ hdecimal 0, hdecimal 1, hdecimal 2, hlow ▸ hdecimal 3⟩
  · exact (parsePort_iff _ _).2 ⟨_, _, _, _, isPortCommand_portCommand ip rest⟩
  · obtain ⟨d1, d2, d3, d4, hcommand⟩ := (parsePort_iff y rest).1 hy
    have hbounds := hcommand.length_bounds
    have hnew := (isPortCommand_portCommand ip rest).length_bounds
    omega

end Sys2Proof.Machine

/-!
Tracked TCP flows (spec/43_translator.md R195, R198, R199, R210, R212). A segment outbound or inbound meets one of three
situations: its flow is unknown, a SYN clears the flow's entry, or the entry is kept and may shift the segment. Each is one
equation about the translation.
-/

namespace Sys2Proof.Machine

/-! ### What a write of the segment leaves -/

theorem drop_put16 {b : List Byte} {i n : Nat} (h : i + 2 ≤ n) (v : BitVec 16) : (put16 b i v).drop n = b.drop n := by
  rw [put16, List.drop_set_of_lt (by omega), List.drop_set_of_lt (by omega)]

theorem drop_put32 {b : List Byte} {i n : Nat} (h : i + 4 ≤ n) (v : BitVec 32) : (put32 b i v).drop n = b.drop n := by
  rw [put32, drop_put16 (by omega), drop_put16 (by omega)]

/-- A field written below the header's end leaves the payload. -/
theorem drop_adjustTcp {p : Params} {seg old new : List Byte} {n : Nat} (h : 18 ≤ n) :
    (adjustTcp p seg old new).drop n = seg.drop n := drop_put16 h _

theorem drop_shiftSeq {p : Params} {x : PmapEntry} {t : TcpHeader} {seg : List Byte} {n : Nat} (h : 18 ≤ n) :
    (shiftSeq p x t seg).drop n = seg.drop n := by
  simp only [shiftSeq]
  split
  · rw [drop_put32 (by omega), drop_adjustTcp h]
  · rfl

/-! ### The segment of a packet -/

/-- A segment that decodes is adjusted to the new address and goes on to the flow tracking (43_translator.md R195). -/
theorem readdress_of_tcp {s : State} {h : IpHeader} {pkt : List Byte} {off : Nat} {old new : IpAddr}
    {tcp : TcpHeader → List Byte → List Byte → XlResult} {t : TcpHeader} (hfrag : h.fragOff = 0#13) (hproto : h.proto = 6#8)
    (ht : tcpDecode (pkt.drop h.hl) = some t) :
    readdress s h pkt off old new tcp
      = tcp t (rewriteIpHeader s.params (pkt.take h.hl) off (be16 pkt 10) old new)
          (adjustTcp s.params (pkt.drop h.hl) (bytes32 old) (bytes32 new)) := by
  have hudp : h.proto ≠ 17#8 := by rw [hproto]; decide
  simp only [readdress]
  rw [if_neg (not_not.2 hfrag), if_neg hudp, if_pos hproto, ht]

/-- The operand holds a TCP segment of the translated host, and the command is not refused. -/
structure OutboundSegment (s : State) (h : IpHeader) (t : TcpHeader) : Prop where
  attached : s.ctrl.attached = true
  lenA_le : s.port.lenA.toNat ≤ s.params.bufCap
  decoded : ipDecode s.operandA = some h
  active : s.ident.xlActive = true
  source : h.src = s.ident.externalHostIp
  whole : h.fragOff = 0#13
  proto : h.proto = 6#8
  segment : tcpDecode ((s.operandA.take h.tl).drop h.hl) = some t

/-- The IP header of the operand with its source translated (43_translator.md R193). -/
def State.outHeader (s : State) (h : IpHeader) : List Byte :=
  rewriteIpHeader s.params ((s.operandA.take h.tl).take h.hl) 12 (be16 (s.operandA.take h.tl) 10)
    s.ident.externalHostIp s.ident.ownIp

/-- The segment of the operand adjusted to the translated source (43_translator.md R195). -/
def State.outSegment (s : State) (h : IpHeader) : List Byte :=
  adjustTcp s.params ((s.operandA.take h.tl).drop h.hl) (bytes32 s.ident.externalHostIp) (bytes32 s.ident.ownIp)

namespace OutboundSegment

variable {s : State} {h : IpHeader} {t : TcpHeader} (hseg : OutboundSegment s h t)
include hseg

theorem exec_xlOut : exec .xlOut s = storeOut (xlOutTcp s h t (s.outHeader h) (s.outSegment h)) := by
  obtain ⟨hrun, -⟩ := exec_attached_xl hseg.attached hseg.lenA_le
  rw [hrun, xlOut_of_translates hseg.decoded hseg.active hseg.source,
    readdress_of_tcp hseg.whole hseg.proto hseg.segment]
  rfl

omit hseg in
theorem length_outHeader : (s.outHeader h).length = ((s.operandA.take h.tl).take h.hl).length :=
  length_rewriteIpHeader _ _ _ _ _ _

omit hseg in
theorem length_outSegment : (s.outSegment h).length = ((s.operandA.take h.tl).drop h.hl).length :=
  length_adjustTcp _ _ _ _

theorem twenty_le_hlen : 20 ≤ t.hlen := by
  obtain ⟨-, hmin, -⟩ := tcpDecode_some hseg.segment
  exact hmin

theorem drop_outSegment : (s.outSegment h).drop t.hlen = ((s.operandA.take h.tl).drop h.hl).drop t.hlen :=
  drop_adjustTcp (le_trans (by decide) hseg.twenty_le_hlen)

/-- A packet that keeps its length is stored. -/
theorem storeOut_kept (l : List PmapEntry) {hdr seg : List Byte} (hhdr : hdr.length = (s.outHeader h).length)
    (hlen : seg.length = (s.outSegment h).length) :
    storeOut ({ s with pmap := l }, .ok, some (hdr ++ seg)) = .next (({ s with pmap := l } : State).withOut (hdr ++ seg)) :=
  storeOut_ok_of_length (s := { s with pmap := l }) hseg.lenA_le hseg.decoded
    (length_header_append_segment hseg.decoded (hhdr.trans length_outHeader) (hlen.trans length_outSegment))

end OutboundSegment

/-! ### The three situations, outbound -/

/-- The entry is of the flow with these ports (43_translator.md R198). -/
def IsFlow (sp dp : BitVec 16) (e : PmapEntry) : Prop :=
  e.srcPort = sp ∧ e.dstPort = dp ∧ ¬ (e.srcPort = 0#16 ∧ e.dstPort = 0#16)

theorem pmapGet_of_getElem? {s : State} {i : Nat} {e : PmapEntry} (he : s.pmap[i]? = some e) : pmapGet s i = e := by
  rw [pmapGet, List.getD_eq_getElem?_getD, he, Option.getD_some]

section Flows

variable {s : State} {i : Nat} {e : PmapEntry} {t : TcpHeader} (h : IpHeader) (hdr seg : List Byte)

theorem xlOutTcp_of_unknown (hno : ∀ e ∈ s.pmap, ¬ IsFlow t.sport t.dport e) :
    xlOutTcp s h t hdr seg = xlOutFtp s h t hdr seg none := by
  simp only [xlOutTcp, (pmapFind_eq_none_iff s.pmap t.sport t.dport).2 hno]

theorem xlOutTcp_of_syn (hlow : LowestIndex s.pmap (IsFlow t.sport t.dport) i) (hsyn : t.flags.getLsbD 1 = true) :
    xlOutTcp s h t hdr seg = xlOutFtp (s.clearFlow i) h t hdr seg none := by
  simp only [xlOutTcp, (pmapFind_eq_some_iff s.pmap t.sport t.dport i).2 hlow]
  exact if_pos hsyn

theorem xlOutTcp_of_tracked (hlow : LowestIndex s.pmap (IsFlow t.sport t.dport) i) (he : s.pmap[i]? = some e)
    (hsyn : t.flags.getLsbD 1 = false) :
    xlOutTcp s h t hdr seg = xlOutFtp { s with pmap := s.pmap.set i (e.closing s.params t) } h t hdr
      (shiftSeq s.params e t seg) (some i) := by
  have hnosyn : ¬ t.syn = true := by
    rw [TcpHeader.syn, hsyn]
    decide
  simp only [xlOutTcp, (pmapFind_eq_some_iff s.pmap t.sport t.dport i).2 hlow]
  rw [if_neg hnosyn, armClose_some he, pmapGet_of_getElem? he]

/-- No `PORT` command to rewrite: the segment leaves as it is (43_translator.md R200, R201). -/
theorem xlOutFtp_of_no_port {u : State} {g : Option Nat}
    (hno : t.dport ≠ u.params.ftpCtrlPort ∨ h.mf = true ∨ parsePort (seg.drop t.hlen) = none) :
    xlOutFtp u h t hdr seg g = (u, .ok, some (hdr ++ seg)) := by
  simp only [xlOutFtp]
  by_cases hctrl : t.dport = u.params.ftpCtrlPort ∧ h.mf = false
  · obtain ⟨hport, hmf⟩ := hctrl
    have hparse : parsePort (seg.drop t.hlen) = none :=
      (hno.resolve_left (not_not_intro hport)).resolve_left (by simp [hmf])
    rw [if_pos ⟨hport, hmf⟩, hparse]
  · rw [if_neg hctrl]

end Flows

/-- Settles O27: the decoder as an equivalence, and the three situations with no `PORT` command. -/
theorem xlOutTracksTcpFlow : Obligations.XlOutTracksTcpFlow := by
  refine ⟨tcpDecode_iff_headerOf, fun s h t ha hl hd hext hne hsrc hfrag hproto => ?_⟩
  intro p zb old new hdr seg seg1 mine ht hno
  have hseg : OutboundSegment s h t := ⟨ha, hl, hd, s.ident.xlActive_eq_true_iff.2 ⟨hext, hne⟩, hsrc, hfrag, hproto, ht⟩
  have hno1 : t.dport ≠ s.params.ftpCtrlPort ∨ h.mf = true ∨ parsePort ((s.outSegment h).drop t.hlen) = none := by
    rw [hseg.drop_outSegment]
    exact hno
  rw [hseg.exec_xlOut]
  refine ⟨fun hunknown => ?_, fun i hlow hsyn => ?_, fun i e hlow he hsyn => ?_⟩
  · rw [xlOutTcp_of_unknown _ _ _ hunknown, xlOutFtp_of_no_port _ _ _ hno1]
    exact hseg.storeOut_kept s.pmap rfl rfl
  · rw [xlOutTcp_of_syn _ _ _ hlow hsyn, xlOutFtp_of_no_port (u := s.clearFlow i) _ _ _ hno1]
    exact hseg.storeOut_kept _ rfl rfl
  · have hdrop : (shiftSeq s.params e t (s.outSegment h)).drop t.hlen = (s.outSegment h).drop t.hlen :=
      drop_shiftSeq (le_trans (by decide) hseg.twenty_le_hlen)
    rw [← hdrop] at hno1
    rw [xlOutTcp_of_tracked _ _ _ hlow he hsyn,
      xlOutFtp_of_no_port (u := { s with pmap := s.pmap.set i (e.closing s.params t) }) _ _ _ hno1]
    exact hseg.storeOut_kept _ rfl (length_shiftSeq _ _ _ _)

/-! ### The three situations, inbound -/

section Inbound

variable {s : State} {i : Nat} {e : PmapEntry} {t : TcpHeader} (hdr seg : List Byte)

theorem xlInTcp_of_unknown (hno : ∀ e ∈ s.pmap, ¬ IsFlow t.dport t.sport e) :
    xlInTcp s t hdr seg = (s, .ok, some (hdr ++ seg)) := by
  simp only [xlInTcp, (pmapFind_eq_none_iff s.pmap t.dport t.sport).2 hno]

theorem xlInTcp_of_syn (hlow : LowestIndex s.pmap (IsFlow t.dport t.sport) i) (hsyn : t.flags.getLsbD 1 = true) :
    xlInTcp s t hdr seg = (s.clearFlow i, .ok, some (hdr ++ seg)) := by
  simp only [xlInTcp, (pmapFind_eq_some_iff s.pmap t.dport t.sport i).2 hlow]
  exact if_pos hsyn

theorem xlInTcp_of_tracked (hlow : LowestIndex s.pmap (IsFlow t.dport t.sport) i) (he : s.pmap[i]? = some e)
    (hsyn : t.flags.getLsbD 1 = false) :
    xlInTcp s t hdr seg = ({ s with pmap := s.pmap.set i (e.closing s.params t) }, .ok,
      some (hdr ++ shiftAck s.params e t seg)) := by
  have hnosyn : ¬ t.syn = true := by
    rw [TcpHeader.syn, hsyn]
    decide
  simp only [xlInTcp, (pmapFind_eq_some_iff s.pmap t.dport t.sport i).2 hlow]
  rw [if_neg hnosyn, armClose_some he, pmapGet_of_getElem? he]

end Inbound

/-- Settles O28: the three situations under the reversed ports. -/
theorem xlInTracksTcpFlow : Obligations.XlInTracksTcpFlow := by
  intro s h t ha hl hd hext hne hdst hfrag hproto p zb old new hdr seg seg1 mine ht
  have hact : s.ident.xlActive = true := s.ident.xlActive_eq_true_iff.2 ⟨hext, hne⟩
  have hrun : exec .xlIn s = storeOut (xlInTcp s t hdr seg1) := by
    rw [(exec_attached_xl ha hl).2, xlIn_of_translates hd hact hdst, readdress_of_tcp hfrag hproto ht]
    rfl
  have store : ∀ (l : List PmapEntry) (g : List Byte), g.length = seg1.length →
      storeOut ({ s with pmap := l }, .ok, some (hdr ++ g)) = .next (({ s with pmap := l } : State).withOut (hdr ++ g)) :=
    fun l g hg => storeOut_ok_of_length (s := { s with pmap := l }) hl hd
      (length_header_append_segment hd (length_rewriteIpHeader _ _ _ _ _ _) (hg.trans (length_put16 _ _ _)))
  rw [hrun]
  refine ⟨fun hunknown => ?_, fun i hlow hsyn => ?_, fun i e hlow he hsyn => ?_⟩
  · rw [xlInTcp_of_unknown _ _ hunknown]
    exact store s.pmap seg1 rfl
  · rw [xlInTcp_of_syn _ _ hlow hsyn]
    exact store _ seg1 rfl
  · rw [xlInTcp_of_tracked _ _ hlow he hsyn]
    exact store _ _ (length_shiftAck _ _ _ _)

end Sys2Proof.Machine

/-!
The `PORT` rewrite (spec/43_translator.md R203 to R206). To the same length the payload is replaced and the checksum adjusted;
to another length the packet is rebuilt, and a rebuilt packet verifies from scratch whatever the segment was.
-/

namespace Sys2Proof.Machine

/-! ### Writes below and above a cut -/

theorem take_put16 (b : List Byte) (i n : Nat) (v : BitVec 16) : (put16 b i v).take n = put16 (b.take n) i v := by
  rw [put16, put16, List.take_set, List.take_set]

theorem put16_append_left {a : List Byte} {i : Nat} (h : i + 2 ≤ a.length) (b : List Byte) (v : BitVec 16) :
    put16 (a ++ b) i v = put16 a i v ++ b := by
  rw [put16, put16, List.set_append_left _ _ (by omega), List.set_append_left _ _ (by rw [List.length_set]; omega)]

/-! ### The rebuilt packet -/

/-- The IP header of a rebuilt packet: total length and checksum written anew (43_translator.md R204). -/
def rebuiltHeader (hdr : List Byte) (n : Nat) : List Byte :=
  let blank := put16 (put16 hdr 2 (BitVec.ofNat 16 n)) 10 0#16
  put16 blank 10 (checksum blank)

/-- The segment of a rebuilt packet: TCP header, new payload, checksum written anew (43_translator.md R204). -/
def rebuiltSegment (src dst : IpAddr) (header y2 : List Byte) : List Byte :=
  let blank := put16 header 16 0#16 ++ y2
  put16 blank 16 (checksum (pseudo src dst protoTcp blank.length ++ blank))

@[simp] theorem length_rebuiltHeader (hdr : List Byte) (n : Nat) : (rebuiltHeader hdr n).length = hdr.length := by
  simp [rebuiltHeader]

@[simp] theorem length_rebuiltSegment (src dst : IpAddr) (header y2 : List Byte) :
    (rebuiltSegment src dst header y2).length = header.length + y2.length := by
  simp [rebuiltSegment]

/-- The whole rebuilt packet, from the header and the segment as the tracking left them. -/
def rebuiltPacket (src : IpAddr) (h : IpHeader) (t : TcpHeader) (hdr g y2 : List Byte) : List Byte :=
  rebuiltHeader hdr (h.hl + t.hlen + y2.length) ++ rebuiltSegment src h.dst (g.take t.hlen) y2

/-- A flow's entry with a change of length recorded (43_translator.md R204). -/
def PmapEntry.moved (e : PmapEntry) (t : TcpHeader) (y y2 : List Byte) : PmapEntry :=
  { e with seqAdjust := e.seqAdjust + (BitVec.ofNat 32 y2.length - BitVec.ofNat 32 y.length), lastSeq := t.seq }

theorem ofInt_sub_length (a b : Nat) :
    BitVec.ofInt 32 ((a : Int) - (b : Int)) = BitVec.ofNat 32 a - BitVec.ofNat 32 b := by
  rw [Int.sub_eq_add_neg, BitVec.ofInt_add, BitVec.ofInt_neg, BitVec.ofInt_natCast, BitVec.ofInt_natCast,
    BitVec.sub_eq_add_neg]

/-! ### The different-length rewrite -/

section Grow

variable {u : State} {h : IpHeader} {t : TcpHeader} {hdr g y y2 : List Byte} {src : IpAddr} {i : Nat}

theorem xlOutGrow_of_oversize (e : Option Nat) (hover : u.params.ipMaxLen < h.hl + t.hlen + y2.length) :
    xlOutGrow u h t hdr g e y y2 = (u.count .txDiscard, .discarded, none) :=
  if_pos hover

variable (hfits : h.hl + t.hlen + y2.length ≤ u.params.ipMaxLen)
include hfits

theorem xlOutGrow_of_full (hno : ∀ e ∈ u.pmap, ¬ (e.srcPort = 0#16 ∧ e.dstPort = 0#16)) :
    xlOutGrow u h t hdr g none y y2 = (u.count .pmapFull, .pmapFull, none) := by
  simp only [xlOutGrow, if_neg (Nat.not_lt.2 hfits), (pmapFreeSlot_eq_none_iff u.pmap).2 hno]

variable (hsrc : be32 hdr 12 = src) (hmin : 20 ≤ t.hlen) (hg : t.hlen ≤ g.length)
include hsrc hmin hg

omit hfits in
/-- The segment that `xlOutGrow` answers: the checksum field lies in the TCP header. -/
theorem rebuiltSegment_eq :
    (let blank := put16 (g.take t.hlen ++ y2) 16 0#16
     put16 blank 16 (checksum (pseudo (be32 hdr 12) h.dst protoTcp blank.length ++ blank)))
      = rebuiltSegment src h.dst (g.take t.hlen) y2 := by
  have hlen : 16 + 2 ≤ (g.take t.hlen).length := by
    rw [List.length_take_of_le hg]
    omega
  simp only [rebuiltSegment, put16_append_left hlen, hsrc]

/-- The flow of a tracked segment takes the change of length. -/
theorem xlOutGrow_of_tracked {e : PmapEntry} (he : u.pmap[i]? = some e) :
    xlOutGrow u h t hdr g (some i) y y2
      = ({ u with pmap := u.pmap.set i (e.moved t y y2) }, .ok, some (rebuiltPacket src h t hdr g y2)) := by
  simp only [xlOutGrow, if_neg (Nat.not_lt.2 hfits), ofInt_sub_length]
  rw [List.modify_eq_set_getElem?, he, rebuiltSegment_eq hsrc hmin hg]
  rfl

/-- An untracked flow takes the lowest free entry. -/
theorem xlOutGrow_of_free (hfree : LowestIndex u.pmap (fun e => e.srcPort = 0#16 ∧ e.dstPort = 0#16) i) :
    xlOutGrow u h t hdr g none y y2
      = ({ u with pmap := u.pmap.set i ⟨t.sport, t.dport, 0#16,
            BitVec.ofNat 32 y2.length - BitVec.ofNat 32 y.length, t.seq⟩ }, .ok,
          some (rebuiltPacket src h t hdr g y2)) := by
  simp only [xlOutGrow, if_neg (Nat.not_lt.2 hfits), (pmapFreeSlot_eq_some_iff u.pmap i).2 hfree, ofInt_sub_length]
  rw [rebuiltSegment_eq hsrc hmin hg]
  rfl

end Grow

/-! ### The rewrite of an operand -/

/-- The operand is an outbound segment that carries a `PORT` command on the control connection; the parameters are legal. -/
structure OutboundPort (s : State) (h : IpHeader) (t : TcpHeader) (rest : List Byte) : Prop extends
    OutboundSegment s h t where
  legal : s.params.legal = true
  unfragmented : h.mf = false
  control : t.dport = s.params.ftpCtrlPort
  port : parsePort (((s.operandA.take h.tl).drop h.hl).drop t.hlen) = some rest

/-- The payload of the operand. -/
def State.outPayload (s : State) (h : IpHeader) (t : TcpHeader) : List Byte :=
  ((s.operandA.take h.tl).drop h.hl).drop t.hlen

/-- A segment as the tracking leaves it: as long as the operand's, with its payload. -/
structure KeepsPayload (s : State) (h : IpHeader) (t : TcpHeader) (g : List Byte) : Prop where
  length_eq : g.length = ((s.operandA.take h.tl).drop h.hl).length
  drop_eq : g.drop t.hlen = s.outPayload h t

namespace OutboundPort

variable {s : State} {h : IpHeader} {t : TcpHeader} {rest : List Byte} (hport : OutboundPort s h t rest)
include hport

theorem keepsPayload_outSegment : KeepsPayload s h t (s.outSegment h) :=
  ⟨OutboundSegment.length_outSegment, hport.drop_outSegment⟩

theorem keepsPayload_shiftSeq (e : PmapEntry) : KeepsPayload s h t (shiftSeq s.params e t (s.outSegment h)) :=
  ⟨(length_shiftSeq _ _ _ _).trans OutboundSegment.length_outSegment,
    (drop_shiftSeq (le_trans (by decide) hport.twenty_le_hlen)).trans hport.drop_outSegment⟩

theorem hlen_le_length {g : List Byte} (hg : KeepsPayload s h t g) : t.hlen ≤ g.length := by
  obtain ⟨-, -, hle, -⟩ := tcpDecode_some hport.segment
  rw [hg.length_eq]
  exact hle

theorem length_header : (s.outHeader h).length = h.hl := by
  obtain ⟨-, -, -, hhl, -⟩ := ipDecode_some hport.decoded
  rw [OutboundSegment.length_outHeader, List.length_take_of_le]
  rw [length_take_totalLength hport.decoded]
  exact hhl

/-- The source of the translated header. -/
theorem source_outHeader : be32 (s.outHeader h) 12 = s.ident.ownIp := by
  obtain ⟨-, -, hmin, -⟩ := ipDecode_some hport.decoded
  have hlen := hport.length_header
  rw [State.outHeader, length_rewriteIpHeader] at hlen
  exact be32_put32 (by rw [length_put16]; omega) _

/-- The rewrite of the payload, on the state and the segment that the tracking left. -/
theorem xlOutFtp_eq (l : List PmapEntry) {g : List Byte} (hg : KeepsPayload s h t g) (i : Option Nat) :
    xlOutFtp { s with pmap := l } h t (s.outHeader h) g i
      = if (portCommand s.ident.ownIp rest).length = (s.outPayload h t).length then
          ({ s with pmap := l }, .ok, some (s.outHeader h ++ (put16 (g.take t.hlen) 16
            (adjustCsum s.params (be16 g 16) (s.outPayload h t) (portCommand s.ident.ownIp rest))
              ++ portCommand s.ident.ownIp rest)))
        else xlOutGrow { s with pmap := l } h t (s.outHeader h) g i (s.outPayload h t)
          (portCommand s.ident.ownIp rest) := by
  have hparse : parsePort (s.outPayload h t) = some rest := hport.port
  simp only [xlOutFtp, hg.drop_eq, hparse]
  rw [if_pos ⟨hport.control, hport.unfragmented⟩, List.append_assoc]
  simp only [adjustTcp, take_put16]

/-- A rebuilt packet that fits an IP packet fits `BUF_OUT`. -/
theorem storeOut_rebuilt (l : List PmapEntry) {g : List Byte} (hg : KeepsPayload s h t g)
    (hfits : h.hl + t.hlen + (portCommand s.ident.ownIp rest).length ≤ s.params.ipMaxLen) :
    storeOut ({ s with pmap := l }, .ok,
        some (rebuiltPacket s.ident.ownIp h t (s.outHeader h) g (portCommand s.ident.ownIp rest)))
      = .next (({ s with pmap := l } : State).withOut
          (rebuiltPacket s.ident.ownIp h t (s.outHeader h) g (portCommand s.ident.ownIp rest))) := by
  have hlegal := hport.legal
  simp only [Params.legal, Params.framesOk, Bool.and_eq_true, decide_eq_true_eq] at hlegal
  obtain ⟨-, ⟨⟨⟨hcap, -⟩, -⟩, -⟩, -⟩ := hlegal
  have hmax : s.params.ipMaxLen ≤ s.params.bufCap := (Nat.sub_le _ _).trans hcap
  refine storeOut_some (s := { s with pmap := l }) (le_trans (le_of_eq ?_) (hfits.trans hmax))
  simp only [rebuiltPacket, List.length_append, length_rebuiltHeader, length_rebuiltSegment, hport.length_header,
    List.length_take_of_le (hport.hlen_le_length hg)]
  omega

/-- To the same length the payload is replaced and no table written (43_translator.md R203). -/
theorem storeOut_same (l : List PmapEntry) {g : List Byte} (hg : KeepsPayload s h t g) (i : Option Nat)
    (hlen : (portCommand s.ident.ownIp rest).length = (s.outPayload h t).length) :
    storeOut (xlOutFtp { s with pmap := l } h t (s.outHeader h) g i)
      = .next (({ s with pmap := l } : State).withOut (s.outHeader h ++ (put16 (g.take t.hlen) 16
          (adjustCsum s.params (be16 g 16) (s.outPayload h t) (portCommand s.ident.ownIp rest))
            ++ portCommand s.ident.ownIp rest))) := by
  rw [hport.xlOutFtp_eq l hg, if_pos hlen]
  refine hport.storeOut_kept l rfl ?_
  have hle := hport.hlen_le_length hg
  have hpayload : (s.outPayload h t).length = g.length - t.hlen := by rw [← hg.drop_eq, List.length_drop]
  rw [OutboundSegment.length_outSegment, ← hg.length_eq, List.length_append, length_put16, List.length_take_of_le hle, hlen,
    hpayload]
  omega

variable (hne : (portCommand s.ident.ownIp rest).length ≠ (s.outPayload h t).length)
include hne

/-- To a length above `IP_MAX_LEN` the packet is dropped (43_translator.md R204). -/
theorem storeOut_oversize (l : List PmapEntry) {g : List Byte} (hg : KeepsPayload s h t g) (i : Option Nat)
    (hover : s.params.ipMaxLen < h.hl + t.hlen + (portCommand s.ident.ownIp rest).length) :
    storeOut (xlOutFtp { s with pmap := l } h t (s.outHeader h) g i)
      = .next ((({ s with pmap := l } : State).count .txDiscard).withStatus 4#8) := by
  rw [hport.xlOutFtp_eq l hg, if_neg hne, xlOutGrow_of_oversize (u := { s with pmap := l }) i hover]
  rfl

variable (hfits : h.hl + t.hlen + (portCommand s.ident.ownIp rest).length ≤ s.params.ipMaxLen)
include hfits

/-- With no entry free the packet of an untracked flow is dropped (43_translator.md R205). -/
theorem storeOut_full {l : List PmapEntry} {g : List Byte} (hg : KeepsPayload s h t g)
    (hno : ∀ e ∈ l, ¬ (e.srcPort = 0#16 ∧ e.dstPort = 0#16)) :
    storeOut (xlOutFtp { s with pmap := l } h t (s.outHeader h) g none)
      = .next ((({ s with pmap := l } : State).count .pmapFull).withStatus 12#8) := by
  rw [hport.xlOutFtp_eq l hg, if_neg hne, xlOutGrow_of_full (u := { s with pmap := l }) hfits hno]
  rfl

/-- An untracked flow takes the lowest free entry (43_translator.md R204). -/
theorem storeOut_free {l : List PmapEntry} {i : Nat} {g : List Byte} (hg : KeepsPayload s h t g)
    (hfree : LowestIndex l (fun e => e.srcPort = 0#16 ∧ e.dstPort = 0#16) i) :
    storeOut (xlOutFtp { s with pmap := l } h t (s.outHeader h) g none)
      = .next (({ s with pmap := l.set i ⟨t.sport, t.dport, 0#16,
            BitVec.ofNat 32 (portCommand s.ident.ownIp rest).length - BitVec.ofNat 32 (s.outPayload h t).length, t.seq⟩ } :
          State).withOut (rebuiltPacket s.ident.ownIp h t (s.outHeader h) g (portCommand s.ident.ownIp rest))) := by
  rw [hport.xlOutFtp_eq l hg, if_neg hne, xlOutGrow_of_free (u := { s with pmap := l }) hfits hport.source_outHeader
    hport.twenty_le_hlen (hport.hlen_le_length hg) hfree]
  exact hport.storeOut_rebuilt _ hg hfits

/-- A tracked flow takes the change of length (43_translator.md R204). -/
theorem storeOut_tracked {l : List PmapEntry} {i : Nat} {e : PmapEntry} {g : List Byte} (hg : KeepsPayload s h t g)
    (he : l[i]? = some e) :
    storeOut (xlOutFtp { s with pmap := l } h t (s.outHeader h) g (some i))
      = .next (({ s with pmap := l.set i (e.moved t (s.outPayload h t) (portCommand s.ident.ownIp rest)) } :
          State).withOut (rebuiltPacket s.ident.ownIp h t (s.outHeader h) g (portCommand s.ident.ownIp rest))) := by
  rw [hport.xlOutFtp_eq l hg, if_neg hne, xlOutGrow_of_tracked (u := { s with pmap := l }) hfits hport.source_outHeader
    hport.twenty_le_hlen (hport.hlen_le_length hg) he]
  exact hport.storeOut_rebuilt _ hg hfits

end OutboundPort

/-! ### The statement -/

section Situations

variable {s : State} {h : IpHeader} {t : TcpHeader} (hseg : OutboundSegment s h t)
include hseg

/-- A flow that is unknown, or whose entry a SYN cleared, goes on untracked. -/
theorem exec_xlOut_untracked {l : List PmapEntry}
    (hsituation : (∀ e ∈ s.pmap, ¬ IsFlow t.sport t.dport e) ∧ l = s.pmap
      ∨ ∃ k, LowestIndex s.pmap (IsFlow t.sport t.dport) k ∧ t.flags.getLsbD 1 = true
          ∧ l = s.pmap.set k PmapEntry.zero) :
    exec .xlOut s = storeOut (xlOutFtp { s with pmap := l } h t (s.outHeader h) (s.outSegment h) none) := by
  rw [hseg.exec_xlOut]
  rcases hsituation with ⟨hunknown, rfl⟩ | ⟨k, hlow, hsyn, rfl⟩
  · rw [xlOutTcp_of_unknown _ _ _ hunknown]
  · rw [xlOutTcp_of_syn _ _ _ hlow hsyn]
    rfl

/-- A known flow goes on with its close timer armed or left, and its segment shifted or left. -/
theorem exec_xlOut_tracked {i : Nat} {e : PmapEntry} (hlow : LowestIndex s.pmap (IsFlow t.sport t.dport) i)
    (he : s.pmap[i]? = some e) (hsyn : t.flags.getLsbD 1 = false) :
    exec .xlOut s = storeOut (xlOutFtp { s with pmap := s.pmap.set i (e.closing s.params t) } h t (s.outHeader h)
      (shiftSeq s.params e t (s.outSegment h)) (some i)) := by
  rw [hseg.exec_xlOut, xlOutTcp_of_tracked _ _ _ hlow he hsyn]

end Situations

/-- An entry written to the slot of an entry stands there. -/
theorem getElem?_set_of_getElem? {l : List PmapEntry} {i : Nat} {e : PmapEntry} (he : l[i]? = some e) (x : PmapEntry) :
    (l.set i x)[i]? = some x := by
  obtain ⟨hi, -⟩ := List.getElem?_eq_some_iff.1 he
  exact List.getElem?_set_self hi

/-- Settles O30: the outcomes of the rewrite for an untracked flow, then for a tracked one. -/
theorem portRewriteRecordsDelta : Obligations.PortRewriteRecordsDelta := by
  intro s h t rest ha hl hlegal hd hext hne hsrc hfrag hmf hproto p zb old new hdr seg seg1 ht hdport hparse y y2 newLen
    delta fits oversize replaced rebuilt closing mine dropped full
  have hport : OutboundPort s h t rest :=
    ⟨⟨ha, hl, hd, s.ident.xlActive_eq_true_iff.2 ⟨hext, hne⟩, hsrc, hfrag, hproto, ht⟩, hlegal, hmf, hdport, hparse⟩
  have hsame : ∀ (l : List PmapEntry) (g : List Byte) (i : Option Nat), KeepsPayload s h t g → y2.length = y.length →
      storeOut (xlOutFtp { s with pmap := l } h t (s.outHeader h) g i)
        = .next (({ s with pmap := l } : State).withOut (replaced g)) := fun l g i hg hlen => by
    rw [hport.storeOut_same l hg i hlen, ← List.append_assoc]
    rfl
  refine ⟨fun l hsituation => ?_, fun i e hlow he hsyn => ?_⟩
  · have hg := hport.keepsPayload_outSegment
    rw [exec_xlOut_untracked hport.toOutboundSegment hsituation]
    exact ⟨hsame l _ none hg, fun ⟨hlen, hover⟩ => hport.storeOut_oversize hlen l hg none hover,
      fun i ⟨hlen, hfits⟩ hfree => hport.storeOut_free hlen hfits hg hfree,
      fun ⟨hlen, hfits⟩ hno => hport.storeOut_full hlen hfits hg hno⟩
  · have hg := hport.keepsPayload_shiftSeq e
    intro g timer kept moved
    rw [exec_xlOut_tracked hport.toOutboundSegment hlow he hsyn]
    refine ⟨hsame _ _ (some i) hg, fun ⟨hlen, hover⟩ => hport.storeOut_oversize hlen _ hg (some i) hover,
      fun ⟨hlen, hfits⟩ => ?_⟩
    rw [hport.storeOut_tracked hlen hfits hg (getElem?_set_of_getElem? he _), List.set_set]
    rfl

end Sys2Proof.Machine

/-!
What stands in `BUF_OUT` after a `PORT` rewrite to another length (spec/43_translator.md R204, R206): the rebuilt packet,
whose lengths and checksums verify, and every other byte of whose headers is the operand's.
-/

namespace Sys2Proof.Machine

/-! ### Reading back what was stored -/

theorem readBytes_eq_of_read {m : Memory} {bs : List Byte} : ∀ {a : Nat},
    (∀ i, i < bs.length → m.read (a + i) = bs.getD i 0#8) → m.readBytes a bs.length = bs := by
  induction bs with
  | nil => exact fun _ => rfl
  | cons b bs ih =>
    intro a h
    have hhead : m.read a = b := h 0 (Nat.succ_pos _)
    have htail : m.readBytes (a + 1) bs.length = bs := ih fun i hi => by
      rw [Nat.add_assoc, Nat.add_comm 1 i]
      exact h (i + 1) (Nat.succ_lt_succ hi)
    rw [List.length_cons, Memory.readBytes, hhead, htail]

/-- The packet a translation stores reads back from `BUF_OUT[0:LEN_OUT]`. -/
theorem State.readBytes_withOut {s : State} (hwf : s.bufOut.wf) {q : List Byte} (hq : q.length ≤ 65535) :
    (s.withOut q).bufOut.readBytes 0 (s.withOut q).port.lenOut.toNat = q := by
  have hlen : (s.withOut q).port.lenOut.toNat = q.length := Nat.mod_eq_of_lt (by omega)
  rw [hlen]
  refine readBytes_eq_of_read fun i hi => ?_
  have hread := bufferWriteReplacesExactlyThoseBytes s.bufOut 0 q i hwf
  rw [if_pos ⟨Nat.zero_le i, by omega⟩, Nat.sub_zero] at hread
  rw [Nat.zero_add]
  exact hread

theorem byteAt_put32_of_ne {b : List Byte} {i j : Nat} (h : j < i ∨ i + 4 ≤ j) (v : BitVec 32) :
    byteAt (put32 b i v) j = byteAt b j := by
  rw [put32, byteAt_put16_of_ne (by omega), byteAt_put16_of_ne (by omega)]

/-! ### The rebuilt header -/

section RebuiltHeader

variable {hdr : List Byte} {n : Nat}

theorem checksum_rebuiltHeader (hlen : 12 ≤ hdr.length) : checksum (rebuiltHeader hdr n) = 0#16 :=
  checksum_put16_checksum rfl (by simpa using hlen) (be16_put16 (by simpa using hlen) _)

theorem totalLength_rebuiltHeader (hlen : 4 ≤ hdr.length) : be16 (rebuiltHeader hdr n) 2 = BitVec.ofNat 16 n := by
  rw [rebuiltHeader, be16_put16_of_ne (by omega), be16_put16_of_ne (by omega), be16_put16 hlen]

theorem byteAt_rebuiltHeader {j : Nat} (hlength : ¬ (2 ≤ j ∧ j ≤ 3)) (hcsum : ¬ (10 ≤ j ∧ j ≤ 11)) :
    byteAt (rebuiltHeader hdr n) j = byteAt hdr j := by
  rw [rebuiltHeader, byteAt_put16_of_ne (by omega), byteAt_put16_of_ne (by omega), byteAt_put16_of_ne (by omega)]

theorem be32_rebuiltHeader {j : Nat} (hj : 12 ≤ j) : be32 (rebuiltHeader hdr n) j = be32 hdr j := by
  rw [rebuiltHeader, be32_put16_of_ne (by omega), be32_put16_of_ne (by omega), be32_put16_of_ne (by omega)]

end RebuiltHeader

/-! ### The rebuilt segment -/

section RebuiltSegment

variable {src dst : IpAddr} {header y2 : List Byte} (hlen : 18 ≤ header.length)
include hlen

theorem checksum_rebuiltSegment :
    checksum (pseudo src dst protoTcp (rebuiltSegment src dst header y2).length ++ rebuiltSegment src dst header y2)
      = 0#16 := by
  let blank := put16 header 16 0#16 ++ y2
  let whole := pseudo src dst protoTcp blank.length ++ blank
  have hpseudo : (pseudo src dst protoTcp blank.length).length = 12 := by simp [pseudo]
  have hblank : blank.length = header.length + y2.length := by simp [blank]
  have hwhole : whole.length = 12 + blank.length := by rw [List.length_append, hpseudo]
  have hfield : be16 whole 28 = 0#16 := by
    rw [be16_append_right (by omega), hpseudo, be16_append_left (by rw [length_put16]; omega),
      be16_put16 (by omega)]
  have hput : put16 whole 28 (checksum whole)
      = pseudo src dst protoTcp blank.length ++ rebuiltSegment src dst header y2 := by
    rw [show 28 = (pseudo src dst protoTcp blank.length).length + 16 by rw [hpseudo], put16_append_right]
    rfl
  rw [length_rebuiltSegment, ← hblank, ← hput]
  exact checksum_put16_checksum rfl (by omega) hfield

theorem drop_rebuiltSegment : (rebuiltSegment src dst header y2).drop header.length = y2 := by
  rw [rebuiltSegment, drop_put16 hlen]
  exact List.drop_left' (length_put16 _ _ _)

omit hlen in
theorem byteAt_rebuiltSegment {j : Nat} (hj : j < header.length) (hcsum : ¬ (16 ≤ j ∧ j ≤ 17)) :
    byteAt (rebuiltSegment src dst header y2) j = byteAt header j := by
  rw [rebuiltSegment, byteAt_put16_of_ne (by omega), byteAt_append_left (by rw [length_put16]; exact hj),
    byteAt_put16_of_ne (by omega)]

theorem seq_rebuiltSegment : be32 (rebuiltSegment src dst header y2) 4 = be32 header 4 := by
  rw [rebuiltSegment, be32_put16_of_ne (by omega), be32_append_left (by rw [length_put16]; omega),
    be32_put16_of_ne (by omega)]

end RebuiltSegment

/-! ### The segment as the tracking left it -/

/-- The segment that the tracking of the operand's flow leaves (43_translator.md R199). -/
def State.trackedSegment (s : State) (h : IpHeader) (t : TcpHeader) : List Byte :=
  match pmapFind s.pmap t.sport t.dport with
  | none => s.outSegment h
  | some i => if t.flags.getLsbD 1 = true then s.outSegment h else shiftSeq s.params (pmapGet s i) t (s.outSegment h)

namespace OutboundSegment

variable {s : State} {h : IpHeader} {t : TcpHeader} (hseg : OutboundSegment s h t)
include hseg

theorem length_segment : ((s.operandA.take h.tl).drop h.hl).length = h.tl - h.hl := by
  rw [List.length_drop, length_take_totalLength hseg.decoded]

/-- The sequence number the host used stands in the adjusted segment. -/
theorem seq_outSegment : be32 (s.outSegment h) 4 = t.seq := by
  obtain ⟨-, -, -, -, -, hseq, -⟩ := tcpDecode_some hseg.segment
  rw [hseq]
  exact be32_put16_of_ne (by omega) _

/-- The bytes of the adjusted segment but its checksum are the operand's. -/
theorem byteAt_outSegment {j : Nat} (hj : j < t.hlen) (hcsum : ¬ (16 ≤ j ∧ j ≤ 17)) :
    byteAt (s.outSegment h) j = byteAt s.operandA (h.hl + j) := by
  obtain ⟨-, -, hle, -⟩ := tcpDecode_some hseg.segment
  rw [hseg.length_segment] at hle
  rw [State.outSegment, adjustTcp, byteAt_put16_of_ne (by omega), byteAt_drop, byteAt_take (by omega)]

/-- The shift writes the sequence number and the checksum (43_translator.md R199). -/
theorem byteAt_shiftSeq (e : PmapEntry) {j : Nat} (hj : j < t.hlen) (hseq : ¬ (4 ≤ j ∧ j ≤ 7))
    (hcsum : ¬ (16 ≤ j ∧ j ≤ 17)) :
    byteAt (shiftSeq s.params e t (s.outSegment h)) j = byteAt s.operandA (h.hl + j) := by
  rw [← hseg.byteAt_outSegment hj hcsum, shiftSeq]
  split
  · rw [byteAt_put32_of_ne (by omega), adjustTcp, byteAt_put16_of_ne (by omega)]
  · rfl

theorem seq_shiftSeq (e : PmapEntry) :
    be32 (shiftSeq s.params e t (s.outSegment h)) 4
      = if e.lastSeq.toNat < t.seq.toNat then t.seq + e.seqAdjust else t.seq := by
  obtain ⟨-, hmin, hle, -⟩ := tcpDecode_some hseg.segment
  have hlen : 4 + 4 ≤ (s.outSegment h).length := by
    rw [length_outSegment]
    omega
  by_cases habove : e.lastSeq < t.seq
  · rw [shiftSeq, if_pos habove, if_pos (BitVec.lt_def.1 habove)]
    exact be32_put32 (by rw [length_adjustTcp]; exact hlen) _
  · rw [shiftSeq, if_neg habove, if_neg (mt BitVec.lt_def.2 habove), hseg.seq_outSegment]

theorem byteAt_trackedSegment {j : Nat} (hj : j < t.hlen) (hseq : ¬ (4 ≤ j ∧ j ≤ 7)) (hcsum : ¬ (16 ≤ j ∧ j ≤ 17)) :
    byteAt (s.trackedSegment h t) j = byteAt s.operandA (h.hl + j) := by
  rw [State.trackedSegment]
  split
  · exact hseg.byteAt_outSegment hj hcsum
  · split
    · exact hseg.byteAt_outSegment hj hcsum
    · exact hseg.byteAt_shiftSeq _ hj hseq hcsum

/-- An unknown flow keeps its sequence number. -/
theorem seq_trackedSegment_of_unknown (hno : ∀ e ∈ s.pmap, ¬ IsFlow t.sport t.dport e) :
    be32 (s.trackedSegment h t) 4 = t.seq := by
  simp only [State.trackedSegment, (pmapFind_eq_none_iff s.pmap t.sport t.dport).2 hno, hseg.seq_outSegment]

/-- A tracked flow's is shifted when above `last_seq`, but for a SYN. -/
theorem seq_trackedSegment_of_flow {i : Nat} {e : PmapEntry} (hlow : LowestIndex s.pmap (IsFlow t.sport t.dport) i)
    (he : s.pmap[i]? = some e) :
    be32 (s.trackedSegment h t) 4
      = if t.flags.getLsbD 1 = false ∧ e.lastSeq.toNat < t.seq.toNat then t.seq + e.seqAdjust else t.seq := by
  simp only [State.trackedSegment, (pmapFind_eq_some_iff s.pmap t.sport t.dport i).2 hlow, pmapGet_of_getElem? he]
  cases t.flags.getLsbD 1 with
  | true => simp [hseg.seq_outSegment]
  | false => simp [hseg.seq_shiftSeq]

end OutboundSegment

/-! ### What the command stores -/

namespace OutboundPort

variable {s : State} {h : IpHeader} {t : TcpHeader} {rest : List Byte} (hport : OutboundPort s h t rest)
include hport

theorem keepsPayload_trackedSegment : KeepsPayload s h t (s.trackedSegment h t) := by
  rw [State.trackedSegment]
  split
  · exact hport.keepsPayload_outSegment
  · split
    · exact hport.keepsPayload_outSegment
    · exact hport.keepsPayload_shiftSeq _

/-- The command goes on to the rewrite on some port map and the tracked segment. -/
theorem exec_xlOut_rewrites : ∃ (l : List PmapEntry) (i : Option Nat),
    exec .xlOut s = storeOut (xlOutFtp { s with pmap := l } h t (s.outHeader h) (s.trackedSegment h t) i)
      ∧ ∀ k, i = some k → ∃ e, l[k]? = some e := by
  rw [hport.exec_xlOut]
  cases hfind : pmapFind s.pmap t.sport t.dport with
  | none =>
    refine ⟨s.pmap, none, ?_, fun k hk => by cases hk⟩
    simp only [xlOutTcp, State.trackedSegment, hfind]
  | some i =>
    have hlow := (pmapFind_eq_some_iff s.pmap t.sport t.dport i).1 hfind
    obtain ⟨e, he, -⟩ := hlow.1
    cases hsyn : t.flags.getLsbD 1 with
    | true =>
      refine ⟨s.pmap.set i PmapEntry.zero, none, ?_, fun k hk => by cases hk⟩
      rw [xlOutTcp_of_syn _ _ _ hlow hsyn]
      simp only [State.trackedSegment, hfind, hsyn]
      rfl
    | false =>
      refine ⟨s.pmap.set i (e.closing s.params t), some i, ?_, fun k hk => ?_⟩
      · rw [xlOutTcp_of_tracked _ _ _ hlow he hsyn]
        simp only [State.trackedSegment, hfind, hsyn, pmapGet_of_getElem? he]
        rfl
      · obtain rfl := Option.some.inj hk
        exact ⟨_, getElem?_set_of_getElem? he _⟩

/-- With `OK` the command has stored the rebuilt packet. -/
theorem stored_of_ok (hne : (portCommand s.ident.ownIp rest).length ≠ (s.outPayload h t).length) {u : State}
    (hexec : exec .xlOut s = .next u) (hok : u.port.status = 0#8) :
    h.hl + t.hlen + (portCommand s.ident.ownIp rest).length ≤ s.params.ipMaxLen
      ∧ ∃ l, u = ({ s with pmap := l } : State).withOut
          (rebuiltPacket s.ident.ownIp h t (s.outHeader h) (s.trackedSegment h t) (portCommand s.ident.ownIp rest)) := by
  have hg := hport.keepsPayload_trackedSegment
  obtain ⟨l, i, hrun, hentry⟩ := hport.exec_xlOut_rewrites
  rw [hrun] at hexec
  rcases Nat.lt_or_ge s.params.ipMaxLen (h.hl + t.hlen + (portCommand s.ident.ownIp rest).length) with hover | hfits
  · rw [hport.storeOut_oversize hne l hg i hover] at hexec
    cases hexec
    have hcode : 4#8 = 0#8 := hok
    exact absurd hcode (by decide)
  · refine ⟨hfits, ?_⟩
    cases i with
    | some k =>
      obtain ⟨e, he⟩ := hentry k rfl
      rw [hport.storeOut_tracked hne hfits hg he] at hexec
      cases hexec
      exact ⟨_, rfl⟩
    | none =>
      cases hfree : pmapFreeSlot l with
      | none =>
        rw [hport.storeOut_full hne hfits hg ((pmapFreeSlot_eq_none_iff l).1 hfree)] at hexec
        cases hexec
        have hcode : 12#8 = 0#8 := hok
        exact absurd hcode (by decide)
      | some k =>
        rw [hport.storeOut_free hne hfits hg ((pmapFreeSlot_eq_some_iff l k).1 hfree)] at hexec
        cases hexec
        exact ⟨_, rfl⟩

/-- The bytes of the translated header but its checksum and its source are the operand's. -/
theorem byteAt_outHeader {j : Nat} (hj : j < h.hl) (hwritten : ¬ (10 ≤ j ∧ j ≤ 15)) :
    byteAt (s.outHeader h) j = byteAt s.operandA j := by
  obtain ⟨-, -, -, htl, -⟩ := ipDecode_some hport.decoded
  rw [State.outHeader, rewriteIpHeader, byteAt_put32_of_ne (by omega), byteAt_put16_of_ne (by omega),
    byteAt_take hj, byteAt_take (by omega)]

/-- The destination stays. -/
theorem destination_outHeader : be32 (s.outHeader h) 16 = h.dst := by
  obtain ⟨-, -, hmin, htl, -, -, -, -, hdst⟩ := ipDecode_some hport.decoded
  rw [State.outHeader, rewriteIpHeader, be32_put32_of_ne (by omega), be32_put16_of_ne (by omega),
    be32_take (by omega), be32_take (by omega), hdst]

end OutboundPort

/-- Settles O31: `BUF_OUT` holds the rebuilt packet, which the lemmas on its two parts describe. -/
theorem portRewriteIsConsistent : Obligations.PortRewriteIsConsistent := by
  intro s u h t rest ha hwf hl hlegal hd hext hne hsrc hfrag hmf hproto ht hdport hparse hlength hexec hok q mine
  have hport : OutboundPort s h t rest :=
    ⟨⟨ha, hl, hd, s.ident.xlActive_eq_true_iff.2 ⟨hext, hne⟩, hsrc, hfrag, hproto, ht⟩, hlegal, hmf, hdport, hparse⟩
  have hpayload : (s.outPayload h t).length = h.tl - h.hl - t.hlen := by
    rw [State.outPayload, List.length_drop, hport.length_segment]
  obtain ⟨hfits, l, rfl⟩ := hport.stored_of_ok (hpayload ▸ hlength) hexec hok
  have hg := hport.keepsPayload_trackedSegment
  obtain ⟨-, -, hhlmin, -⟩ := ipDecode_some hd
  have hhlenmin := hport.twenty_le_hlen
  let y2 := portCommand s.ident.ownIp rest
  let header := rebuiltHeader (s.outHeader h) (h.hl + t.hlen + y2.length)
  let tcp := (s.trackedSegment h t).take t.hlen
  let segment := rebuiltSegment s.ident.ownIp h.dst tcp y2
  have hheader : header.length = h.hl := (length_rebuiltHeader _ _).trans hport.length_header
  have htcp : tcp.length = t.hlen := List.length_take_of_le (hport.hlen_le_length hg)
  have hmin : 18 ≤ tcp.length := by omega
  have hsegment : segment.length = t.hlen + y2.length := by rw [length_rebuiltSegment, htcp]
  have hpacket : (header ++ segment).length = h.hl + t.hlen + y2.length := by
    rw [List.length_append, hheader, hsegment, Nat.add_assoc]
  have hmax : h.hl + t.hlen + y2.length ≤ 65535 := by
    simp only [Params.legal, Params.framesOk, Bool.and_eq_true, decide_eq_true_eq] at hlegal
    obtain ⟨-, -, hmax⟩ := hlegal
    exact hfits.trans ((Nat.sub_le _ _).trans hmax)
  have hq : q = header ++ segment := State.readBytes_withOut (s := { s with pmap := l }) hwf (hpacket.trans_le hmax)
  have hdrop : q.drop h.hl = segment := by rw [hq, List.drop_left' hheader]
  have hfield : ∀ j, 12 ≤ j → j + 4 ≤ h.hl → be32 q j = be32 (s.outHeader h) j := fun j hj hfit => by
    rw [hq, be32_append_left (by omega), be32_rebuiltHeader hj]
  have hseq : be32 q (h.hl + 4) = be32 (s.trackedSegment h t) 4 := by
    rw [← be32_drop, hdrop, seq_rebuiltSegment hmin, be32_take (by omega)]
  have hqlen : q.length = h.hl + t.hlen + y2.length := hq ▸ hpacket
  refine ⟨hqlen, ?total, ?source, ?destination, ?ipsum, ?tcpsum, ?payload, fun j hj hlen hwritten => ?ipbytes,
    fun j hj hseqfield hcsum => ?tcpbytes, fun hno => ?unknown, fun i e hlow he => ?flow⟩
  case total =>
    rw [hqlen, hq, be16_append_left (by omega), totalLength_rebuiltHeader (by rw [hport.length_header]; omega)]
    exact Nat.mod_eq_of_lt (by omega)
  case source => rw [hfield 12 le_rfl (by omega), hport.source_outHeader]
  case destination => rw [hfield 16 (by omega) (by omega), hport.destination_outHeader]
  case ipsum =>
    rw [hq, List.take_left' hheader]
    exact checksum_rebuiltHeader (by rw [hport.length_header]; omega)
  case tcpsum =>
    have hlen : q.length - h.hl = segment.length := by omega
    rw [hdrop, hlen]
    exact checksum_rebuiltSegment hmin
  case payload =>
    rw [← List.drop_drop, hdrop, ← htcp]
    exact drop_rebuiltSegment hmin
  case ipbytes =>
    rw [hq, byteAt_append_left (by omega), byteAt_rebuiltHeader hlen (by omega), hport.byteAt_outHeader hj hwritten]
  case tcpbytes =>
    rw [← byteAt_drop, hdrop, byteAt_rebuiltSegment (by omega) hcsum, byteAt_take hj,
      hport.byteAt_trackedSegment hj hseqfield hcsum]
  case unknown => rw [hseq, hport.seq_trackedSegment_of_unknown hno]
  case flow => rw [hseq, hport.seq_trackedSegment_of_flow hlow he]

end Sys2Proof.Machine
